-- ==== Sys2Proof/Word.lean ====
section
/-! DEFINITION. The word types of the PDTP and how a byte is read as a signed value (00_scope.md R5, R8). -/

namespace Sys2Proof

/-- `u8`: an operand, a result or a datapath value (R5, R8). -/
abbrev U8 := BitVec 8

/-- A request word (R60). -/
abbrev ReqWord := BitVec 32

/-- A response word (R61). -/
abbrev RspWord := BitVec 16

/-- `s8(x)`: a `u8` read as a two's-complement signed value (R8). -/
def s8 (x : U8) : Int := x.toInt

/-- `u8(v)`: any integer modulo 256 (R8). -/
def u8 (v : Int) : U8 := BitVec.ofInt 8 v

end Sys2Proof
end

