-- ==== Sys2Proof/Config.lean ====
section
/-! DEFINITION. The implementation parameters of 00_scope.md R6 and the free values of the model: constants without a
body, so that a claim holds for every value of them. -/

namespace Sys2Proof

/-- The settings of `OOR_RESULT` (R6, D10): what PSM or PN2 answers when its smoothing operand is out of range. -/
inductive OorResult where
  /-- a free draw -/
  | any
  /-- the formula applied to the unmasked operand -/
  | wrap
deriving DecidableEq, Repr, Inhabited

/-- The settings of `RESET_KIND` (R6, D15). -/
inductive ResetKind where
  | sync
  | async
deriving DecidableEq, Repr, Inhabited

/-- `LAT - 1`: `LAT` is OPEN and at least 1 (R6, D13). -/
opaque Config.latPred : Nat

/-- `LAT`: cycles from a request's acceptance to its response becoming valid, at the least (R6, R237). -/
def Config.lat : Nat := Config.latPred + 1

/-- `DEPTH - 1`: `DEPTH` is OPEN and at least 1 (R6, D14). -/
opaque Config.depthPred : Nat

/-- `DEPTH`: how many accepted requests may await the taking of their responses (R6, R27). -/
def Config.depth : Nat := Config.depthPred + 1

/-- `OOR_RESULT`: OPEN (R6, D10). Claims hold under both settings (log entry 1). -/
opaque Config.oorResult : OorResult

/-- `RESET_KIND`: OPEN; "no rule depends on it" (R6, I7), and no definition reads it (log entry 8). -/
opaque Config.resetKind : ResetKind

/-- The free draws of `OOR_RESULT = ANY` (R142, R161), one for each value of the counter `State.draws` (log entry 1). -/
opaque Config.freeByte : Nat → U8

/-- What `rsp_word` shows while `rsp_valid = 0` (R231, I8), one free value for each clock edge (log entry 10). -/
opaque Config.freeRspWord : Nat → RspWord

end Sys2Proof
end

