-- ==== Sys2Proof/Machine/Operands.lean ====
section
/-! DEFINITION. The operators on `u8` values and the smoothing operand's mask and range (00_scope.md R8 to R10,
40_primitives.md R104, R107). Operand forms: A, B and C are bytes of the request word used as they stand (30_encoding.md
R66). -/

namespace Sys2Proof.Machine

/-- `add8(x, y) = (x + y) mod 256` (R9). -/
def add8 (x y : U8) : U8 := x + y

/-- `sub8(x, y) = (x - y) mod 256` (R9). -/
def sub8 (x y : U8) : U8 := x - y

/-- `mul8lo(x, y) = (x * y) mod 256` (R9). -/
def mul8lo (x y : U8) : U8 := x * y

/-- `x >> k`: logical right shift, 0 for every k ≥ 8 (R10, D11; log entry 13). -/
def shr8 (x : U8) (k : Nat) : U8 := x >>> k

/-- A constant read as `u8(k)` (R9). -/
def const8 (k : Nat) : U8 := BitVec.ofNat 8 k

/-- `POPCNT8(x)`: the number of set bits, 0..8 (R104). -/
def popcnt8 (x : U8) : Nat :=
  (x.getLsbD 0).toNat + (x.getLsbD 1).toNat + (x.getLsbD 2).toNat + (x.getLsbD 3).toNat
    + (x.getLsbD 4).toNat + (x.getLsbD 5).toNat + (x.getLsbD 6).toNat + (x.getLsbD 7).toNat

/-- `MASK(N, x) = x AND (2^N - 1)` (R107). -/
def mask (n : Nat) (x : U8) : U8 := x &&& const8 (2 ^ n - 1)

/-- The smoothing operand's precondition range, `x ≤ 2^N - 1` (R141, R160). -/
def inRange (n : Nat) (x : U8) : Bool := decide (x.toNat ≤ 2 ^ n - 1)

end Sys2Proof.Machine
end

