-- ==== Sys2Proof/Machine/Datapath.lean ====
section
/-! DEFINITION. The sub-units of 40_primitives.md (R100 to R110), the smoothing offset (42_smooth.md R140) and the
operations' functions of their operand bytes (R130, R141, R160, R180). -/

namespace Sys2Proof.Machine

/-- Bit-reversal unit: output bit i is input bit 7-i (R100). The list is least significant bit first. -/
def brev8 (x : U8) : U8 :=
  BitVec.ofBoolListLE
    [x.getLsbD 7, x.getLsbD 6, x.getLsbD 5, x.getLsbD 4, x.getLsbD 3, x.getLsbD 2, x.getLsbD 1, x.getLsbD 0]

/-- The 16-entry nibble-reversal table, as R101 prints it. -/
def nrevTable : List (BitVec 4) :=
  [0x0#4, 0x8#4, 0x4#4, 0xC#4, 0x2#4, 0xA#4, 0x6#4, 0xE#4,
   0x1#4, 0x9#4, 0x5#4, 0xD#4, 0x3#4, 0xB#4, 0x7#4, 0xF#4]

/-- `NREV(n)`: the table's entry for a nibble (R101). -/
def nrev (n : BitVec 4) : BitVec 4 := nrevTable.getD n.toNat 0#4

/-- The nibble-table structure of the bit-reversal unit (R101, informative): the low nibble's reversal is placed high. -/
def brev8ByNibbles (x : U8) : U8 := nrev (x.extractLsb' 0 4) ++ nrev (x.extractLsb' 4 4)

/-- Zigzag decoder, `sub8(0, x AND 1) XOR (x >> 1)` (R102). -/
def zz8 (x : U8) : U8 := sub8 0#8 (x &&& 1#8) ^^^ shr8 x 1

/-- The zigzag encoding, the inverse of `zz8` (R103, which marks the formula as general knowledge; log entry 16):
`u8((2·s8(x)) XOR (s8(x) >> 7 arithmetic))`. -/
def zzEnc8 (x : U8) : U8 := add8 x x ^^^ x.sshiftRight 7

/-- Popcount-based shifter, `x >> POPCNT8(x)` (R105). -/
def pshift (x : U8) : U8 := shr8 x (popcnt8 x)

/-- Product unit (R106). -/
def mul8loUnit (x y : U8) : U8 := mul8lo x y

/-- Sign-dependent bias corrector, `b >> 7`, of the operand as the request presents it (R108, C1). -/
def sbias (b : U8) : U8 := shr8 b 7

/-- Width-class bias constant of the paranormal2 variant (R109). -/
def bias2 (n : Nat) : U8 := if n ≤ 3 then 2#8 else if 4 < n then 1#8 else 0#8

/-- Parity fixup, `add8(v XOR sub8(p, 1), p)` with p the selecting bit as a byte 0 or 1 (R110, C2). -/
def fixup (v p : U8) : U8 := add8 (v ^^^ sub8 p 1#8) p

/-- Smoothing offset, `sub8(c, 2^(N-1) - 1)` (R140). -/
def soff (n : Nat) (c : U8) : U8 := sub8 c (const8 (2 ^ (n - 1) - 1))

/-- Steps 1 and 2 shared by PN1 and PSM: product, bit reversal, zigzag decode (R130, R141). -/
def productDecoded (a b : U8) : U8 := zz8 (brev8 (mul8loUnit a (b ||| 0x80#8)))

/-- `PN1_f(a, b)` (R130). -/
def pn1F (a b : U8) : U8 := add8 (productDecoded a b) (sbias b)

/-- `PSM_f(N, a, b, c)` (R141); no `SBIAS(b)` term (R131). -/
def psmF (n : Nat) (a b c : U8) : U8 := add8 (productDecoded a b) (soff n c)

/-- `PN2_f(N, a, b)`, its five steps in order (R160). -/
def pn2F (n : Nat) (a b : U8) : U8 :=
  let v1 := pshift a
  let v2 := zz8 v1
  let v3 := add8 v2 (bias2 n)
  let v4 := add8 v3 (sub8 (shr8 b 1) (const8 (2 ^ (n - 2))))
  fixup v4 (b &&& 1#8)

/-- `TINY_f(a)`, its four steps in order (R180, D12; log entry 13). -/
def tinyF (a : U8) : U8 :=
  let h := shr8 a 2
  let v1 := pshift h
  let v2 := zz8 v1
  let v3 := add8 v2 (shr8 (a &&& 3#8) 1)
  fixup v3 (a &&& 1#8)

/-- The result of PSM or PN2 out of range (R142, R161): the draw under `ANY`, the formula's value under `WRAP`. -/
def oorByte (o : OorResult) (free wrapped : U8) : U8 :=
  match o with
  | .any => free
  | .wrap => wrapped

end Sys2Proof.Machine
end

