-- ==== Sys2Proof/Syntax.lean ====
section
/-! DEFINITION. The eight operations of the PDTP (00_scope.md R2, 30_encoding.md R62), one constructor per row of the
opcode table. The smoothing width N is an integer (R5); operand fields an operation ignores are no part of it (R66). -/

namespace Sys2Proof

/-- An operation with its operands. -/
inductive Instr where
  /-- BREV a (R115). -/
  | brev (a : U8)
  /-- ZZDEC a (R116). -/
  | zzdec (a : U8)
  /-- PN1 a, b (R130). -/
  | pn1 (a b : U8)
  /-- PSM.N a, b, c (R141). -/
  | psm (n : Nat) (a b c : U8)
  /-- PSMS.N a, b, c (R143). -/
  | psms (n : Nat) (a b c : U8)
  /-- PN2.N a, b (R160). -/
  | pn2 (n : Nat) (a b : U8)
  /-- PN2S.N a, b (R162). -/
  | pn2s (n : Nat) (a b : U8)
  /-- TINY a (R180). -/
  | tiny (a : U8)
deriving DecidableEq, Repr

/-- The OP value of an operation (R62). -/
def Instr.opcode : Instr → BitVec 4
  | .brev _ => 0x0#4
  | .zzdec _ => 0x1#4
  | .pn1 _ _ => 0x2#4
  | .psm _ _ _ _ => 0x3#4
  | .psms _ _ _ _ => 0x4#4
  | .pn2 _ _ _ => 0x5#4
  | .pn2s _ _ _ => 0x6#4
  | .tiny _ => 0x7#4

/-- The smoothing width, where the operation has one (R63, R64). -/
def Instr.width : Instr → Option Nat
  | .brev _ => none
  | .zzdec _ => none
  | .pn1 _ _ => none
  | .psm n _ _ _ => some n
  | .psms n _ _ _ => some n
  | .pn2 n _ _ => some n
  | .pn2s n _ _ => some n
  | .tiny _ => none

end Sys2Proof
end

