-- ==== Sys2Proof/WellFormed.lean ====
section
/-! DEFINITION. Well-formed operations: the smoothing width N lies in [2,7] (00_scope.md R5, 30_encoding.md R63). Every
other field is a byte and is well-formed by its type; the range of a smoothing operand is no legality condition (R66). -/

namespace Sys2Proof

/-- N in [2,7] (R5, R63). -/
def legalWidth (n : Nat) : Bool := decide (2 ≤ n) && decide (n ≤ 7)

/-- The checks on an operation: its smoothing width, where it has one. -/
def Instr.wf : Instr → Bool
  | .brev _ => true
  | .zzdec _ => true
  | .pn1 _ _ => true
  | .psm n _ _ _ => legalWidth n
  | .psms n _ _ _ => legalWidth n
  | .pn2 n _ _ => legalWidth n
  | .pn2s n _ _ => legalWidth n
  | .tiny _ => true

end Sys2Proof
end

