-- ==== Sys2Proof/Decode.lean ====
section
/-! DEFINITION. The decoder of 30_encoding.md R67, total on all 2^32 words and rejecting by cause; the encoder written
from the table of R73; words as bytes (20_memory.md R41). -/

namespace Sys2Proof

/-- Why a request word is illegal (60_exceptions.md R200). -/
inductive Cause where
  /-- OP in 0x8..0xF -/
  | reservedOp
  /-- RSV = 1 and OP is not reserved -/
  | reservedBit
  /-- NSEL outside the legal set for OP -/
  | badN
deriving DecidableEq, Repr

/-- The cause codes of R200. -/
def Cause.code : Cause → BitVec 2
  | .reservedOp => 1#2
  | .reservedBit => 2#2
  | .badN => 3#2

/-- The decoder's verdict on a request word: one operation or one cause (R68, R71). -/
inductive Verdict where
  | legal (i : Instr)
  | illegal (c : Cause)
deriving DecidableEq, Repr

/-- `OP = W[3:0]` (R60). -/
def opField (w : ReqWord) : BitVec 4 := w.extractLsb' 0 4

/-- `NSEL = W[6:4]` (R60). -/
def nselField (w : ReqWord) : BitVec 3 := w.extractLsb' 4 3

/-- `RSV = W[7]` (R60). -/
def rsvField (w : ReqWord) : Bool := w.getLsbD 7

/-- `A = W[15:8]` (R60). -/
def aField (w : ReqWord) : U8 := w.extractLsb' 8 8

/-- `B = W[23:16]` (R60). -/
def bField (w : ReqWord) : U8 := w.extractLsb' 16 8

/-- `C = W[31:24]` (R60). -/
def cField (w : ReqWord) : U8 := w.extractLsb' 24 8

/-- An operation with a smoothing width: NSEL in {0, 1} is cause 3 (R63). -/
def withWidth (w : ReqWord) (mk : Nat → Instr) : Verdict :=
  if (nselField w).toNat < 2 then .illegal .badN else .legal (mk (nselField w).toNat)

/-- An operation without one: any NSEL but 0 is cause 3 (R64). -/
def withoutWidth (w : ReqWord) (i : Instr) : Verdict :=
  if (nselField w).toNat ≠ 0 then .illegal .badN else .legal i

/-- The operation an OP value selects, or the reserved OP (R62, R68). -/
def decodeOp (w : ReqWord) : Verdict :=
  match (opField w).toNat with
  | 0 => withoutWidth w (.brev (aField w))
  | 1 => withoutWidth w (.zzdec (aField w))
  | 2 => withoutWidth w (.pn1 (aField w) (bField w))
  | 3 => withWidth w (fun n => .psm n (aField w) (bField w) (cField w))
  | 4 => withWidth w (fun n => .psms n (aField w) (bField w) (cField w))
  | 5 => withWidth w (fun n => .pn2 n (aField w) (bField w))
  | 6 => withWidth w (fun n => .pn2s n (aField w) (bField w))
  | 7 => withoutWidth w (.tiny (aField w))
  | _ => .illegal .reservedOp

/-- Decode a request word, the checks in the priority order of R67. -/
def decode (w : ReqWord) : Verdict :=
  if 8 ≤ (opField w).toNat then .illegal .reservedOp
  else if rsvField w then .illegal .reservedBit
  else decodeOp w

/-- The request word `{c, b, a, command}` of four bytes, the first most significant (R7, R60). -/
def packWord (c b a command : U8) : ReqWord := (c ++ b ++ a ++ command).cast (rfl : 8 + 8 + 8 + 8 = 32)

/-- The request word of a byte carriage: byte i is bits [8i+7:8i] (R41). -/
def wordOfLanes (b0 b1 b2 b3 : U8) : ReqWord := packWord b3 b2 b1 b0

/-- The bytes of a request word, byte 0 first (R41). -/
def lanesOfWord (w : ReqWord) : List U8 :=
  [w.extractLsb' 0 8, w.extractLsb' 8 8, w.extractLsb' 16 8, w.extractLsb' 24 8]

/-- The bytes of a response word, byte 0 first (R41). -/
def lanesOfResponse (r : RspWord) : List U8 := [r.extractLsb' 0 8, r.extractLsb' 8 8]

/-- What a run of bytes holds: a whole request word and the bytes after it, or less than a word, which is no transfer
(R42: "No partial or split transfer exists"). -/
inductive LaneVerdict where
  | word (v : Verdict) (rest : List U8)
  | partialTransfer
deriving DecidableEq, Repr

/-- Decode from bytes: the first four, in the lane order of R41. -/
def decodeLanes : List U8 → LaneVerdict
  | b0 :: b1 :: b2 :: b3 :: rest => .word (decode (wordOfLanes b0 b1 b2 b3)) rest
  | _ => .partialTransfer

/-- The decoder on an opcode-table word of `nbits` bits, the bits above them 0. -/
def decodeTableWord (nbits w : Nat) : Option Instr :=
  match decodeLanes (lanesOfWord (BitVec.ofNat 32 (w % 2 ^ nbits))) with
  | .word (.legal i) _ => some i
  | .word (.illegal _) _ => none
  | .partialTransfer => none

/-- The command byte `{1'b0, N[2:0], OP}` of R73; N is 0 for an operation without one. -/
def commandByte (n : Nat) (op : BitVec 4) : U8 :=
  (0#1 ++ BitVec.ofNat 3 n ++ op).cast (rfl : 1 + 3 + 4 = 8)

/-- The request word of an operation, unused operand fields 0 (R73). -/
def encode : Instr → ReqWord
  | .brev a => packWord 0x00#8 0x00#8 a (commandByte 0 0x0#4)
  | .zzdec a => packWord 0x00#8 0x00#8 a (commandByte 0 0x1#4)
  | .pn1 a b => packWord 0x00#8 b a (commandByte 0 0x2#4)
  | .psm n a b c => packWord c b a (commandByte n 0x3#4)
  | .psms n a b c => packWord c b a (commandByte n 0x4#4)
  | .pn2 n a b => packWord 0x00#8 b a (commandByte n 0x5#4)
  | .pn2s n a b => packWord 0x00#8 b a (commandByte n 0x6#4)
  | .tiny a => packWord 0x00#8 0x00#8 a (commandByte 0 0x7#4)

/-- The bits of a request word its operation does not ignore (R66): the command byte, A, and B and C where used. -/
def usedBits : Instr → ReqWord
  | .brev _ => 0x0000FFFF#32
  | .zzdec _ => 0x0000FFFF#32
  | .pn1 _ _ => 0x00FFFFFF#32
  | .psm _ _ _ _ => 0xFFFFFFFF#32
  | .psms _ _ _ _ => 0xFFFFFFFF#32
  | .pn2 _ _ _ => 0x00FFFFFF#32
  | .pn2s _ _ _ => 0x00FFFFFF#32
  | .tiny _ => 0x0000FFFF#32

/-- The 28 legal command bytes, as R72 lists them. -/
def legalCommandBytes : List U8 :=
  [0x00#8, 0x01#8, 0x02#8, 0x07#8,
   0x23#8, 0x33#8, 0x43#8, 0x53#8, 0x63#8, 0x73#8,
   0x24#8, 0x34#8, 0x44#8, 0x54#8, 0x64#8, 0x74#8,
   0x25#8, 0x35#8, 0x45#8, 0x55#8, 0x65#8, 0x75#8,
   0x26#8, 0x36#8, 0x46#8, 0x56#8, 0x66#8, 0x76#8]

end Sys2Proof
end

