-- ==== Sys2Proof/Machine/Flags.lean ====
section
/-! DEFINITION. The response word and its ILL/CAUSE status (30_encoding.md R61). The PDTP has no status flags: "Results
carry no flag", and the status belongs to its one response (10_state.md R23). -/

namespace Sys2Proof.Machine

/-- A response word from its fields: bits [15:11] are 0, then CAUSE, ILL and RESULT (R61). -/
def rspOf (cause : BitVec 2) (ill : Bool) (result : U8) : RspWord :=
  (0#5 ++ cause ++ BitVec.ofBool ill ++ result).cast (rfl : 5 + 2 + 1 + 8 = 16)

/-- `respond(result)`: `{ILL=0, CAUSE=0, RESULT=result}` (R11). -/
def rspLegal (result : U8) : RspWord := rspOf 0#2 false result

/-- `raise IllegalRequest(cause)`: `0x0100 | (k << 9)` (R201). -/
def rspIllegal (c : Cause) : RspWord := rspOf c.code true 0x00#8

/-- RESULT, bits [7:0] (R61). -/
def resultField (r : RspWord) : U8 := r.extractLsb' 0 8

/-- ILL, bit 8 (R61). -/
def illField (r : RspWord) : Bool := r.getLsbD 8

/-- CAUSE, bits [10:9] (R61). -/
def causeField (r : RspWord) : BitVec 2 := r.extractLsb' 9 2

/-- Bits [15:11], always 0 (R61). -/
def rspZeroField (r : RspWord) : BitVec 5 := r.extractLsb' 11 5

/-- The forms R61 admits: a legal response, or one of the three illegal ones with RESULT 0. -/
def rspWellFormed (r : RspWord) : Bool :=
  decide (rspZeroField r = 0#5) &&
    (if illField r then decide (causeField r ≠ 0#2) && decide (resultField r = 0x00#8)
     else decide (causeField r = 0#2))

end Sys2Proof.Machine
end

