-- ==== Sys2Proof/Machine/Resp.lean ====
section
/-! DEFINITION. `RESP(W)`, the decode-and-execute function of 30_encoding.md R67, written as R67 writes it: from the bits
of the request word, with no decoded operation between. The machine answers through `decode` and `exec`; that both agree
is a statement. -/

namespace Sys2Proof.Machine

/-- PSM's result byte on its operands (R141 in range, R142 out of range). -/
def psmByte (o : OorResult) (free : U8) (n : Nat) (a b c : U8) : U8 :=
  if inRange n c then psmF n a b c else oorByte o free (psmF n a b c)

/-- PN2's result byte on its operands (R160 in range, R161 out of range). -/
def pn2Byte (o : OorResult) (free : U8) (n : Nat) (a b : U8) : U8 :=
  if inRange n b then pn2F n a b else oorByte o free (pn2F n a b)

/-- The case distinction of R67 on OP, after the checks. -/
def respOp (o : OorResult) (free : U8) (op n : Nat) (a b c : U8) : RspWord :=
  match op with
  | 0 => rspLegal (brev8 a)
  | 1 => rspLegal (zz8 a)
  | 2 => rspLegal (pn1F a b)
  | 3 => rspLegal (psmByte o free n a b c)
  | 4 => rspLegal (psmF n a b (mask n c))
  | 5 => rspLegal (pn2Byte o free n a b)
  | 6 => rspLegal (pn2F n a (mask n b))
  | _ => rspLegal (tinyF a)

/-- `RESP(W)` (R67), given the setting of `OOR_RESULT` and the byte its draw would give. -/
def resp (o : OorResult) (free : U8) (w : ReqWord) : RspWord :=
  let op := (opField w).toNat
  let nsel := (nselField w).toNat
  if 8 ≤ op then rspIllegal .reservedOp
  else if rsvField w then rspIllegal .reservedBit
  else if 3 ≤ op ∧ op ≤ 6 then
    if nsel < 2 then rspIllegal .badN
    else respOp o free op nsel (aField w) (bField w) (cField w)
  else if nsel ≠ 0 then rspIllegal .badN
  else respOp o free op nsel (aField w) (bField w) (cField w)

/-- The words whose response `OOR_RESULT` decides: a legal PSM with `C > 2^N - 1` or PN2 with `B > 2^N - 1` (R12,
R142, R161). -/
def oorWord (w : ReqWord) : Bool :=
  match decode w with
  | .legal (.psm n _ _ c) => !inRange n c
  | .legal (.pn2 n _ b) => !inRange n b
  | .legal (.brev _) => false
  | .legal (.zzdec _) => false
  | .legal (.pn1 _ _) => false
  | .legal (.psms _ _ _ _) => false
  | .legal (.pn2s _ _ _) => false
  | .legal (.tiny _) => false
  | .illegal _ => false

/-- A response word the spec admits for a request word: `RESP(w)` for some draw (R45, R46, R142, R161). -/
def Admissible (w : ReqWord) (r : RspWord) : Prop := ∃ free : U8, r = resp Config.oorResult free w

end Sys2Proof.Machine
end

