-- ==== Sys2Proof/Machine/State.lean ====
section
/-! DEFINITION. The state of the PDTP and its surroundings as plain data (10_state.md R27 to R32, 70_reset_and_hazards.md
R231), the state after reset, and the reasons a step can stop. -/

namespace Sys2Proof.Machine

/-- An entry of Q (R27): an accepted request word whose response has not been taken, and how many cycles will have
passed since its acceptance at the next rising edge (for `LAT`, R32; log entry 7). -/
structure Flight where
  word : ReqWord
  cycles : Nat
deriving DecidableEq, Repr

/-- One rising edge of `clk` as the outside and the unit's open choices make it (R30). The first four fields are the
input ports; the last two are what the spec leaves to the unit (log entry 3). -/
structure Edge where
  /-- `rst` (R230) -/
  rst : Bool
  /-- `req_valid` (R31) -/
  reqValid : Bool
  /-- `req_word` (R31) -/
  reqWord : ReqWord
  /-- `rsp_ready` (R32) -/
  rspReady : Bool
  /-- the unit would accept at this edge, where Q is not full ("left open", R31, I10) -/
  offerReady : Bool
  /-- the unit raises `rsp_valid` after this edge, where `LAT` allows it ("no sooner than", R32) -/
  raiseValid : Bool
deriving DecidableEq, Repr

/-- The machine: Q, the response-valid output and the held request, then the model's own fields (INVENTORY.md). -/
structure State where
  /-- Q, head first (R27) -/
  queue : List Flight
  /-- `rsp_valid` in the cycle before the next edge, were `rst` low (R32) -/
  rspValid : Bool
  /-- the request presented at the last edge and not accepted, which the host must hold (R31, R234) -/
  pending : Option ReqWord
  /-- the coming edges, next first (model's own, log entry 3) -/
  schedule : List Edge
  /-- request words accepted since the last reset, in order (model's own, R45, R236) -/
  accepted : List ReqWord
  /-- response words taken since the last reset, in order: the observation of the run (model's own, R45, R236) -/
  taken : List RspWord
  /-- response words taken before the last reset (model's own, log entry 9) -/
  past : List RspWord
  /-- counter of free draws (model's own, log entries 1 and 2) -/
  draws : Nat
  /-- counter of clock edges (model's own, log entries 2 and 10) -/
  edges : Nat
deriving DecidableEq, Repr

/-- Just after reset: Q empty and `rsp_valid` 0 (R28, R231); the model's own fields empty or 0 (log entries 2, 3, 6, 9). -/
def State.reset : State :=
  { queue := [], rspValid := false, pending := none, schedule := [], accepted := [], taken := [], past := [],
    draws := 0, edges := 0 }

/-- Why the machine stops with a fault. -/
inductive Fault where
  /-- Raised by `step` when the host drops or changes a request before it is accepted: "A host that breaks (a) gets an
  unspecified request word accepted, and a model treats that as a fault" (R234, I9). Safe: the run stops where the
  hardware goes on. -/
  | requestNotHeld
deriving DecidableEq, Repr

/-- Why the machine gives an instruction no meaning. -/
inductive Refusal where
  /-- Raised only by an arm of `exec` without a meaning; no arm raises it now. Safe: the run stops. -/
  | notModelled (mnemonic : String)
deriving DecidableEq, Repr

end Sys2Proof.Machine
end

