-- ==== Sys2Proof/Machine/Ops.lean ====
section
/-! DEFINITION. The named operations over the state: the ports and handshakes (10_state.md R30 to R32), delivering a
response, the illegal-request report (60_exceptions.md R201), and what a clock edge does around them. -/

namespace Sys2Proof.Machine

/-- Q's request words, head first (R27). -/
def State.words (s : State) : List ReqWord := s.queue.map Flight.word

/-- Q is full, `|Q| = DEPTH` (R31). -/
def State.full (s : State) : Bool := decide (Config.depth ≤ s.queue.length)

/-- The edge when the schedule is at its end: the host offers nothing new, holds a request it has presented and takes
nothing; the unit is not ready (log entry 4). -/
def State.idleEdge (s : State) : Edge :=
  { rst := false, reqValid := s.pending.isSome, reqWord := s.pending.getD 0#32, rspReady := false,
    offerReady := false, raiseValid := false }

/-- The next rising edge. -/
def State.nextEdge (s : State) : Edge :=
  match s.schedule with
  | e :: _ => e
  | [] => s.idleEdge

/-- The output `req_ready` at an edge: 0 under reset and while Q is full, otherwise the unit's choice (R31, R230). -/
def State.reqReady (s : State) (e : Edge) : Bool := !e.rst && (e.offerReady && !s.full)

/-- The output `rsp_valid` at an edge: 0 under reset, and only while Q is non-empty (R32, R230). -/
def State.rspValidOut (s : State) (e : Edge) : Bool := !e.rst && (s.rspValid && !s.queue.isEmpty)

/-- The output `rsp_word`: RESP of Q's head while `rsp_valid = 1` (R32), a free value otherwise (R231, I8). -/
def State.rspWord (s : State) (e : Edge) : RspWord :=
  if s.rspValidOut e then
    match s.queue with
    | f :: _ => resp Config.oorResult (Config.freeByte s.draws) f.word
    | [] => Config.freeRspWord s.edges
  else Config.freeRspWord s.edges

/-- A request is accepted at the edge: `req_valid`, `req_ready` and no reset (R31). -/
def State.acceptsRequest (s : State) (e : Edge) : Bool := e.reqValid && s.reqReady e

/-- A response is taken at the edge: `rsp_valid`, `rsp_ready` and no reset (R32). -/
def State.takesResponse (s : State) (e : Edge) : Bool := e.rspReady && s.rspValidOut e

/-- The host breaks its promise to hold a presented request until it is accepted (R31, R234 (a); log entry 6). -/
def State.holdBroken (s : State) (e : Edge) : Bool :=
  match s.pending with
  | none => false
  | some w => !(e.reqValid && e.reqWord == w)

/-- Deliver a response word: the head of Q is removed and the host has the word (R27, R32). -/
def State.deliver (r : RspWord) (s : State) : State :=
  { s with queue := s.queue.tail, taken := s.taken ++ [r] }

/-- The next free draw is a fresh one (log entry 1). -/
def State.drawn (s : State) : State := { s with draws := s.draws + 1 }

/-- `respond(result)` (R11): the response of a legal request. -/
def respond (result : U8) (s : State) : Host.Outcome State Fault Refusal := .next (s.deliver (rspLegal result))

/-- The response of a legal request whose smoothing operand is out of range: RESULT by `OOR_RESULT`, ILL 0 (R142, R161,
R204). -/
def respondOutOfRange (wrapped : U8) (s : State) : Host.Outcome State Fault Refusal :=
  respond (oorByte Config.oorResult (Config.freeByte s.draws) wrapped) s.drawn

/-- Taking the one exceptional event, the illegal request: its response word in its place, and no other state changed
(R201, R206; log entry 5). There is no return from it (R207). -/
def raiseIllegal (c : Cause) (s : State) : Host.Outcome State Fault Refusal := .next (s.deliver (rspIllegal c))

/-- Continue from a next state; a fault or refusal stays. -/
def afterNext (f : State → State) (o : Host.Outcome State Fault Refusal) : Host.Outcome State Fault Refusal :=
  match o with
  | .next t => .next (f t)
  | .fault r => .fault r
  | .refused r => .refused r

/-- One cycle passes for an entry of Q (R32). -/
def Flight.tick (f : Flight) : Flight := { f with cycles := f.cycles + 1 }

/-- The response of Q's head may become valid: `LAT` cycles will have passed at the next edge (R32, R237). -/
def headReady (q : List Flight) : Bool :=
  match q with
  | f :: _ => decide (Config.lat ≤ f.cycles)
  | [] => false

/-- The entry an edge appends to Q's tail, if it accepts a request (R31). -/
def State.arrivals (s : State) (e : Edge) : List Flight := if s.acceptsRequest e then [⟨e.reqWord, 1⟩] else []

/-- What an edge does beside the response taken at it: the accepted word joins Q's tail (R31), a cycle passes for Q's
entries, `rsp_valid` stays up until taken and may otherwise rise (R32), an unaccepted request is to be held (R31).
`s` is the state before the edge, at which the ports are read; `t` the one after its response was delivered. -/
def State.finishEdge (s : State) (e : Edge) (t : State) : State :=
  { t with
    queue := t.queue.map Flight.tick ++ s.arrivals e
    rspValid := (s.rspValidOut e && !s.takesResponse e)
      || (e.raiseValid && headReady (t.queue.map Flight.tick ++ s.arrivals e))
    pending := if e.reqValid && !s.acceptsRequest e then some e.reqWord else none
    schedule := t.schedule.tail
    accepted := t.accepted ++ (s.arrivals e).map Flight.word
    edges := t.edges + 1 }

/-- An edge under reset: Q is emptied, requests in flight are lost without a response, `rsp_valid` is 0, nothing is
accepted (R230). The records of the run start again (R45, R236; log entry 9), and so do the draws. -/
def State.resetEdge (s : State) (e : Edge) : State :=
  { queue := [], rspValid := false, pending := if e.reqValid then some e.reqWord else none,
    schedule := s.schedule.tail, accepted := [], taken := [], past := s.past ++ s.taken, draws := s.draws + 1,
    edges := s.edges + 1 }

end Sys2Proof.Machine
end

