-- ==== Sys2Proof/Machine/Paranormal1.lean ====
section
/-! DEFINITION. PN1 (41_paranormal1.md R130, R131). -/

namespace Sys2Proof.Machine

/-- PN1 (R130): `respond(PN1_f(A, B))`. -/
def execPn1 (a b : U8) (s : State) : Host.Outcome State Fault Refusal := respond (pn1F a b) s

end Sys2Proof.Machine
end

