-- ==== Sys2Proof/Machine/Paranormal2.lean ====
section
/-! DEFINITION. PN2 and PN2S (43_paranormal2.md R160 to R162). -/

namespace Sys2Proof.Machine

/-- PN2 (R160): `respond(PN2_f(N, A, B))` when `B ≤ 2^N - 1`, otherwise R161. -/
def execPn2 (n : Nat) (a b : U8) (s : State) : Host.Outcome State Fault Refusal :=
  if inRange n b then respond (pn2F n a b) s else respondOutOfRange (pn2F n a b) s

/-- PN2S (R162): `respond(PN2_f(N, A, MASK(N, B)))`; the result is always deterministic. -/
def execPn2s (n : Nat) (a b : U8) (s : State) : Host.Outcome State Fault Refusal :=
  respond (pn2F n a (mask n b)) s

end Sys2Proof.Machine
end

