-- ==== Sys2Proof/Machine/Primitives.lean ====
section
/-! DEFINITION. BREV and ZZDEC (40_primitives.md R115, R116). -/

namespace Sys2Proof.Machine

/-- BREV (R115): `respond(BREV8(A))`. -/
def execBrev (a : U8) (s : State) : Host.Outcome State Fault Refusal := respond (brev8 a) s

/-- ZZDEC (R116): `respond(ZZ8(A))`. -/
def execZzdec (a : U8) (s : State) : Host.Outcome State Fault Refusal := respond (zz8 a) s

end Sys2Proof.Machine
end

