-- ==== Sys2Proof/Machine/Smooth.lean ====
section
/-! DEFINITION. PSM and PSMS (42_smooth.md R141 to R143). -/

namespace Sys2Proof.Machine

/-- PSM (R141): `respond(PSM_f(N, A, B, C))` when `C ≤ 2^N - 1`, otherwise R142. -/
def execPsm (n : Nat) (a b c : U8) (s : State) : Host.Outcome State Fault Refusal :=
  if inRange n c then respond (psmF n a b c) s else respondOutOfRange (psmF n a b c) s

/-- PSMS (R143): `respond(PSM_f(N, A, B, MASK(N, C)))`; `OOR_RESULT` does not apply. -/
def execPsms (n : Nat) (a b c : U8) (s : State) : Host.Outcome State Fault Refusal :=
  respond (psmF n a b (mask n c)) s

end Sys2Proof.Machine
end

