-- ==== Sys2Proof/Machine/Tiny.lean ====
section
/-! DEFINITION. TINY (44_tiny.md R180). -/

namespace Sys2Proof.Machine

/-- TINY (R180, decision D12): `respond(TINY_f(A))`. -/
def execTiny (a : U8) (s : State) : Host.Outcome State Fault Refusal := respond (tinyF a) s

end Sys2Proof.Machine
end

