-- ==== Sys2Proof/Machine/Dispatch.lean ====
section
/-! DEFINITION. The meaning of each operation: one arm per constructor. -/

namespace Sys2Proof.Machine

/-- An operation at the head of Q answers: the `case OP of` of 30_encoding.md R67. -/
def exec (i : Instr) (s : State) : Host.Outcome State Fault Refusal :=
  match i with
  | .brev a => Sys2Proof.Machine.execBrev a s
  | .zzdec a => Sys2Proof.Machine.execZzdec a s
  | .pn1 a b => Sys2Proof.Machine.execPn1 a b s
  | .psm n a b c => Sys2Proof.Machine.execPsm n a b c s
  | .psms n a b c => Sys2Proof.Machine.execPsms n a b c s
  | .pn2 n a b => Sys2Proof.Machine.execPn2 n a b s
  | .pn2s n a b => Sys2Proof.Machine.execPn2s n a b s
  | .tiny a => Sys2Proof.Machine.execTiny a s

end Sys2Proof.Machine
end

