-- ==== Sys2Proof/Machine/Serve.lean ====
section
/-! DEFINITION. Fetching and running Q's head: the response step of 10_state.md R27 by the decoder of R67. -/

namespace Sys2Proof.Machine

/-- Decode the head word of Q and let it answer: the operation's meaning, or the illegal-request report (R67). -/
def serveHead (s : State) : Host.Outcome State Fault Refusal :=
  match s.queue with
  | [] => .next s
  | f :: _ =>
    match decode f.word with
    | .legal i => exec i s
    | .illegal c => raiseIllegal c s

/-- One rising edge with the host's promises kept: reset, or the response taken (if one is) and the rest of the edge. -/
def clockEdge (s : State) (e : Edge) : Host.Outcome State Fault Refusal :=
  if e.rst then .next (s.resetEdge e)
  else if s.takesResponse e then afterNext (s.finishEdge e) (serveHead s)
  else .next (s.finishEdge e s)

end Sys2Proof.Machine
end

