-- ==== Sys2Proof/Machine/Step.lean ====
section
/-! DEFINITION. One step: one rising edge of `clk` (10_state.md R30); and how a request word is put where the next step
serves it. -/

namespace Sys2Proof.Machine

/-- One rising edge of the clock (R30 to R32, R230, R234). -/
def step (s : State) : Host.Outcome State Fault Refusal :=
  if s.holdBroken s.nextEdge then .fault .requestNotHeld else clockEdge s s.nextEdge

/-- The state with the request word `w` at the head of Q in the place of what stood there, its response valid, and a
next edge at which the host takes it (log entry 11). The record of accepted words has it in the same place; a request
the host has presented stays held. -/
def State.withFetchWord (s : State) (nbits w : Nat) : State :=
  let word : ReqWord := BitVec.ofNat 32 (w % 2 ^ nbits)
  { s with
    queue := ⟨word, (s.queue.headD ⟨0#32, 0⟩).cycles + Config.lat⟩ :: s.queue.tail
    rspValid := true
    accepted := s.accepted.take s.taken.length ++ word :: s.accepted.drop (s.taken.length + 1)
    schedule := { s.idleEdge with rspReady := true } :: s.schedule }

end Sys2Proof.Machine
end

