-- ==== Sys2Proof/Machine/Assembler.lean ====
section
/-! DEFINITION. The assembler of 30_encoding.md section 4: one line to one request word (R73), the source's names as
aliases (R74), and the static checks (R75). Lines are lists of characters; what R73 leaves open of their spelling is log
entry 17. -/

namespace Sys2Proof.Machine

/-- The operations a line can name (R73). -/
inductive AsmOp where
  | brev | zzdec | pn1 | psm | psms | pn2 | pn2s | tiny
deriving DecidableEq, Repr

/-- A line read: an operation with its `.N` and its operand literals, or `.word w`. -/
inductive AsmLine where
  | request (op : AsmOp) (width : Option Nat) (operands : List Int)
  | word (w : Nat)
deriving DecidableEq, Repr

/-- Why the assembler rejects a line (R75). -/
inductive AsmError where
  /-- not of the form `MNEMONIC[.N] operand, operand, ...` or `.word w` -/
  | malformed
  /-- a name that is neither a mnemonic (R73) nor an alias (R74) -/
  | unknownName
  /-- `.N` missing, outside [2,7], or given to a mnemonic without N -/
  | badWidth
  /-- a missing or extra operand -/
  | operandCount
  /-- an operand outside -128..255, or a `.word` literal of more than 32 bits -/
  | operandRange
  /-- PSM with a literal c > 2^N - 1, or PN2 with a literal b > 2^N - 1: use the `_safe` form -/
  | useSafeForm
deriving DecidableEq, Repr

/-- The operations with a smoothing width (R63, R64). -/
def AsmOp.hasWidth : AsmOp → Bool
  | .brev => false
  | .zzdec => false
  | .pn1 => false
  | .psm => true
  | .psms => true
  | .pn2 => true
  | .pn2s => true
  | .tiny => false

/-- How many operands the form has (R73). -/
def AsmOp.arity : AsmOp → Nat
  | .brev => 1
  | .zzdec => 1
  | .pn1 => 2
  | .psm => 3
  | .psms => 3
  | .pn2 => 2
  | .pn2s => 2
  | .tiny => 1

/-- The operation of a form with width `n` and operand bytes `a`, `b`, `c`, those it lacks ignored. -/
def AsmOp.instr (op : AsmOp) (n : Nat) (a b c : U8) : Instr :=
  match op with
  | .brev => .brev a
  | .zzdec => .zzdec a
  | .pn1 => .pn1 a b
  | .psm => .psm n a b c
  | .psms => .psms n a b c
  | .pn2 => .pn2 n a b
  | .pn2s => .pn2s n a b
  | .tiny => .tiny a

/-- The `.N` check of R75: present and in [2,7] for an operation with N, absent for one without. -/
def AsmOp.widthOk (op : AsmOp) (width : Option Nat) : Bool :=
  match width with
  | some n => op.hasWidth && legalWidth n
  | none => !op.hasWidth

/-- A literal in -128..255 (R73, R75). -/
def operandOk (v : Int) : Bool := decide (-128 ≤ v) && decide (v ≤ 255)

/-- The smoothing operand of PSM and PN2 is in range (R75); the other operations have no such precondition. -/
def smoothingOk : Instr → Bool
  | .brev _ => true
  | .zzdec _ => true
  | .pn1 _ _ => true
  | .psm n _ _ c => inRange n c
  | .psms _ _ _ _ => true
  | .pn2 n _ b => inRange n b
  | .pn2s _ _ _ => true
  | .tiny _ => true

/-- The byte an operand literal stands for (R73: a signed decimal "stands for its two's-complement byte"). -/
def operandByte (operands : List Int) (k : Nat) : U8 := u8 (operands.getD k 0)

/-- Assemble a line: the static checks of R75, then the word of R73; `.word` is "emitted unchecked". R75 gives its checks no
priority: that a line failing several is rejected by the first of `.N`, operand count, operand range and smoothing operand
is the model's (DESIGN CHOICE, log entry 17). -/
def assemble : AsmLine → Except AsmError ReqWord
  | .word w => if w < 2 ^ 32 then .ok (BitVec.ofNat 32 w) else .error .operandRange
  | .request op width operands =>
    let i := op.instr (width.getD 0) (operandByte operands 0) (operandByte operands 1) (operandByte operands 2)
    if !op.widthOk width then .error .badWidth
    else if operands.length ≠ op.arity then .error .operandCount
    else if !operands.all operandOk then .error .operandRange
    else if !smoothingOk i then .error .useSafeForm
    else .ok (encode i)

/-- The names of R73 and their aliases of R74. -/
def asmNames : List (List Char × AsmOp) :=
  [("BREV".toList, .brev), ("bit_reverse".toList, .brev),
   ("ZZDEC".toList, .zzdec), ("zigzag_decode".toList, .zzdec),
   ("PN1".toList, .pn1), ("paranormal_1".toList, .pn1), ("to_paranormal".toList, .pn1),
   ("PSM".toList, .psm), ("paranormal_smooth".toList, .psm), ("to_smooth_paranormal".toList, .psm),
   ("PSMS".toList, .psms), ("paranormal_smooth_safe".toList, .psms),
   ("PN2".toList, .pn2), ("paranormal2".toList, .pn2),
   ("PN2S".toList, .pn2s), ("paranormal2_safe".toList, .pn2s),
   ("TINY".toList, .tiny), ("tiny_paranormal".toList, .tiny)]

/-- The operation a name stands for (R73, R74). -/
def asmOpOf (name : List Char) : Option AsmOp := (asmNames.find? (fun p => p.1 == name)).map Prod.snd

/-- A blank between the parts of a line. -/
def isBlank (c : Char) : Bool := c == ' ' || c == '\t'

/-- A text without the blanks around it. -/
def trimBlanks (cs : List Char) : List Char := ((cs.dropWhile isBlank).reverse.dropWhile isBlank).reverse

/-- The parts of a text between separators, at least one. -/
def splitAtChar (sep : Char) : List Char → List (List Char)
  | [] => [[]]
  | c :: cs =>
    match splitAtChar sep cs with
    | [] => [[c]]
    | p :: ps => if c == sep then [] :: p :: ps else (c :: p) :: ps

/-- The value of a digit in base 16; a decimal digit is one below 10. -/
def digitValue (c : Char) : Option Nat :=
  if '0'.toNat ≤ c.toNat ∧ c.toNat ≤ '9'.toNat then some (c.toNat - '0'.toNat)
  else if 'a'.toNat ≤ c.toNat ∧ c.toNat ≤ 'f'.toNat then some (c.toNat - 'a'.toNat + 10)
  else if 'A'.toNat ≤ c.toNat ∧ c.toNat ≤ 'F'.toNat then some (c.toNat - 'A'.toNat + 10)
  else none

/-- The value of a run of digits, most significant first, carried in `acc`. Any number of digits, leading zeros among
them: R73 says no number (DESIGN CHOICE, log entry 17). -/
def digitsValue (base : Nat) : Nat → List Char → Option Nat
  | acc, [] => some acc
  | acc, c :: cs =>
    match digitValue c with
    | some d => if d < base then digitsValue base (acc * base + d) cs else none
    | none => none

/-- An unsigned literal, decimal or `0x` hex (R73). -/
def natLiteral (cs : List Char) : Option Nat :=
  match cs with
  | [] => none
  | '0' :: 'x' :: d :: ds => digitsValue 16 0 (d :: ds)
  | d :: ds => digitsValue 10 0 (d :: ds)

/-- An operand literal: unsigned, or a signed decimal (R73). The literal -0, of which R73 says nothing, is 0 (DESIGN
CHOICE, log entry 17). -/
def intLiteral (cs : List Char) : Option Int :=
  match cs with
  | '-' :: d :: ds => (digitsValue 10 0 (d :: ds)).map (fun v => -(v : Int))
  | _ => (natLiteral cs).map (fun v => (v : Int))

/-- The operand literals of a line, separated by commas; none where nothing follows the mnemonic. -/
def operandLiterals (cs : List Char) : Option (List Int) :=
  if (trimBlanks cs).isEmpty then some []
  else ((splitAtChar ',' cs).map trimBlanks).mapM intLiteral

/-- Read `NAME` or `NAME.N` (R73, R74). -/
def readHead (cs : List Char) : Except AsmError (AsmOp × Option Nat) :=
  match splitAtChar '.' cs with
  | [name] =>
    match asmOpOf name with
    | some op => .ok (op, none)
    | none => .error .unknownName
  | [name, width] =>
    match asmOpOf name with
    | some op =>
      match width with
      | [] => .error .malformed
      | d :: ds =>
        match digitsValue 10 0 (d :: ds) with
        | some n => .ok (op, some n)
        | none => .error .malformed
    | none => .error .unknownName
  | _ => .error .malformed

/-- Read one line (R73). -/
def readLine (cs : List Char) : Except AsmError AsmLine :=
  let line := trimBlanks cs
  let head := line.takeWhile (fun c => !isBlank c)
  let rest := trimBlanks (line.dropWhile (fun c => !isBlank c))
  if head == ".word".toList then
    match natLiteral rest with
    | some w => .ok (.word w)
    | none => .error .malformed
  else
    match readHead head with
    | .error e => .error e
    | .ok (op, width) =>
      match operandLiterals rest with
      | some operands => .ok (.request op width operands)
      | none => .error .malformed

/-- Assemble a line of text (R73 to R75). -/
def assembleLine (cs : List Char) : Except AsmError ReqWord :=
  match readLine cs with
  | .ok line => assemble line
  | .error e => .error e

end Sys2Proof.Machine
end

