-- ==== Sys2Proof/Safety.lean ====
section
/-! DEFINITION. What claims say of states and runs: the end of a run and its fault (70_reset_and_hazards.md R236,
60_exceptions.md R201), the host's promise (R234), and the invariants of Q and of the response order (10_state.md R27, R32,
20_memory.md R45). -/

namespace Sys2Proof.Machine

/-- The run has a response with ILL = 1, "a fault of the run" (R201, D26). It looks at the responses taken since the last
reset alone; one taken before it faults no later run (DESIGN CHOICE, log entry 20). -/
def State.runFaulted (s : State) : Bool := s.taken.any illField

/-- The run of a program has ended (R236): every word of it accepted since the last reset, as many responses taken. -/
def State.runEnded (program : List ReqWord) (s : State) : Prop :=
  s.accepted = program ∧ s.taken.length = program.length

/-- A normal end: ended, and not faulted (R201, D26). -/
def State.normalEnd (program : List ReqWord) (s : State) : Prop := s.runEnded program ∧ s.runFaulted = false

/-- What holds of Q and `rsp_valid` in every reachable state: at most DEPTH entries (R27); `rsp_valid` only over a
non-empty Q whose head is at least LAT cycles old (R32); entries in order of acceptance, at most one a cycle (R31). -/
structure State.QueueInv (s : State) : Prop where
  capacity : s.queue.length ≤ Config.depth
  valid : s.rspValid = true → ∃ f, s.queue.head? = some f ∧ Config.lat ≤ f.cycles
  ordered : s.queue.Pairwise (fun f g => g.cycles < f.cycles)
  positive : ∀ f ∈ s.queue, 1 ≤ f.cycles

/-- The response order (R45): the words accepted since the last reset are those answered, then those in Q; and the k-th
response taken is one the spec admits for the k-th of them. -/
structure State.OrderInv (s : State) : Prop where
  inFlight : s.accepted.drop s.taken.length = s.words
  answered : List.Forall₂ Admissible (s.accepted.take s.taken.length) s.taken

/-- Every response taken since the last reset has a form of R61. -/
def State.FormatInv (s : State) : Prop := ∀ r ∈ s.taken, rspWellFormed r = true

end Sys2Proof.Machine
end

