-- ==== Sys2Proof/Certificates/Slice0/Obligations.lean ====
section
/-! DEFINITION. The statements about the PDTP that the provers settle. Each result statement gives the whole next state, so
it is the completion statement and the frame of its operation too: every field the record does not name is unchanged. A
legal response word is `0x00RR` (30_encoding.md R61), written `0#8 ++ r`. -/

open Sys2Proof Sys2Proof.Machine

/-! ## Encoding -/

/-- No bit of an encoding is dropped: decoding the word R73 gives an operation answers that operation. -/
def Obligations.DecodeOfEncodeIsTheOperation : Prop :=
  ∀ i : Instr, i.wf = true → decode (encode i) = .legal i

/-- The other direction: a legal word decodes to a well-formed operation, and its encoding is the word with the ignored
fields 0. -/
def Obligations.LegalWordIsItsOperationsEncoding : Prop :=
  ∀ (w : ReqWord) (i : Instr), decode w = .legal i → i.wf = true ∧ encode i = w &&& usedBits i

/-- The checks of the decoder in their priority order (R202), with the legality of RSV and NSEL (R63, R64, R65). -/
def Obligations.FirstFailingCheckGivesTheCause : Prop :=
  ∀ w : ReqWord,
    (8 ≤ (opField w).toNat → decode w = .illegal .reservedOp) ∧
    ((opField w).toNat < 8 → rsvField w = true → decode w = .illegal .reservedBit) ∧
    ((opField w).toNat < 8 → rsvField w = false →
      (3 ≤ (opField w).toNat ∧ (opField w).toNat ≤ 6 →
        (nselField w).toNat < 2 → decode w = .illegal .badN) ∧
      (3 ≤ (opField w).toNat ∧ (opField w).toNat ≤ 6 →
        2 ≤ (nselField w).toNat →
          ∃ i : Instr, decode w = .legal i ∧ i.opcode = opField w ∧ i.width = some (nselField w).toNat) ∧
      (¬(3 ≤ (opField w).toNat ∧ (opField w).toNat ≤ 6) →
        (nselField w).toNat ≠ 0 → decode w = .illegal .badN) ∧
      (¬(3 ≤ (opField w).toNat ∧ (opField w).toNat ≤ 6) →
        (nselField w).toNat = 0 →
          ∃ i : Instr, decode w = .legal i ∧ i.opcode = opField w ∧ i.width = none))

/-- The legal command bytes of each OP, 28 in all, the operand bytes free; the rest is illegal (R72). -/
def Obligations.LegalCommandByteTally : Prop :=
  (∀ w : ReqWord,
    ((∃ a, decode w = .legal (.brev a)) ↔ w.extractLsb' 0 8 = 0x00#8) ∧
    ((∃ a, decode w = .legal (.zzdec a)) ↔ w.extractLsb' 0 8 = 0x01#8) ∧
    ((∃ a b, decode w = .legal (.pn1 a b)) ↔ w.extractLsb' 0 8 = 0x02#8) ∧
    ((∃ a, decode w = .legal (.tiny a)) ↔ w.extractLsb' 0 8 = 0x07#8) ∧
    ((∃ n a b c, decode w = .legal (.psm n a b c)) ↔
      w.extractLsb' 0 8 ∈ [0x23#8, 0x33#8, 0x43#8, 0x53#8, 0x63#8, 0x73#8]) ∧
    ((∃ n a b c, decode w = .legal (.psms n a b c)) ↔
      w.extractLsb' 0 8 ∈ [0x24#8, 0x34#8, 0x44#8, 0x54#8, 0x64#8, 0x74#8]) ∧
    ((∃ n a b, decode w = .legal (.pn2 n a b)) ↔
      w.extractLsb' 0 8 ∈ [0x25#8, 0x35#8, 0x45#8, 0x55#8, 0x65#8, 0x75#8]) ∧
    ((∃ n a b, decode w = .legal (.pn2s n a b)) ↔
      w.extractLsb' 0 8 ∈ [0x26#8, 0x36#8, 0x46#8, 0x56#8, 0x66#8, 0x76#8]) ∧
    ((∃ i, decode w = .legal i) ↔ w.extractLsb' 0 8 ∈ legalCommandBytes)) ∧
  legalCommandBytes.length = 28 ∧ legalCommandBytes.Nodup

/-- Words written out from the spec's encodings stand for their operations. -/
def Obligations.WrittenOutWordsDecode : Prop :=
  decode 0x00002D00#32 = .legal (.brev 0x2D#8) ∧
  decode 0x00001101#32 = .legal (.zzdec 0x11#8) ∧
  decode 0x00D50302#32 = .legal (.pn1 0x03#8 0xD5#8) ∧
  decode 0x05341233#32 = .legal (.psm 3 0x12#8 0x34#8 0x05#8) ∧
  decode 0xF9341244#32 = .legal (.psms 4 0x12#8 0x34#8 0xF9#8) ∧
  decode 0x000F8045#32 = .legal (.pn2 4 0x80#8 0x0F#8) ∧
  decode 0x00FE0026#32 = .legal (.pn2s 2 0x00#8 0xFE#8) ∧
  decode 0x00008307#32 = .legal (.tiny 0x83#8) ∧
  decode 0xFFFFFF07#32 = .legal (.tiny 0xFF#8) ∧
  decode 0x0000008B#32 = .illegal .reservedOp ∧
  decode 0x00000083#32 = .illegal .reservedBit ∧
  decode 0x07000013#32 = .illegal .badN

/-- Fields an operation does not use change neither its operation nor its legality; no operand byte decides legality. -/
def Obligations.IgnoredFieldsHaveNoEffect : Prop :=
  (∀ (w w' : ReqWord) (i : Instr),
    decode w = .legal i → w &&& usedBits i = w' &&& usedBits i → decode w' = .legal i) ∧
  (∀ (w w' : ReqWord) (c : Cause),
    w.extractLsb' 0 8 = w'.extractLsb' 0 8 → decode w = .illegal c → decode w' = .illegal c)

/-- A request word carried as bytes, byte i its bits [8i+7:8i]. -/
def Obligations.LittleEndianLanes : Prop :=
  (∀ (w : ReqWord) (rest : List U8), decodeLanes (lanesOfWord w ++ rest) = .word (decode w) rest) ∧
  (∀ (w : ReqWord) (i j : Nat), i < 4 → j < 8 →
    ((lanesOfWord w).getD i 0#8).getLsbD j = w.getLsbD (8 * i + j)) ∧
  (∀ (r : RspWord) (i j : Nat), i < 2 → j < 8 →
    ((lanesOfResponse r).getD i 0#8).getLsbD j = r.getLsbD (8 * i + j))

/-! ## Sub-units -/

/-- The nibble table reverses its index, and the nibble structure computes the bit reversal (R101). -/
def Obligations.NibbleTableReverses : Prop :=
  (∀ (n : BitVec 4) (j : Nat), j < 4 → (nrev n).getLsbD j = n.getLsbD (3 - j)) ∧
  (∀ x : U8, brev8 x = nrev (x.extractLsb' 0 4) ++ nrev (x.extractLsb' 4 4))

/-- The popcount shifter with its corner cases and its bound (R105), over the population count (R104). -/
def Obligations.PopcountShiftBound : Prop :=
  (∀ x : U8, popcnt8 x = ((List.range 8).map (fun i => (x.getLsbD i).toNat)).sum ∧ popcnt8 x ≤ 8) ∧
  (∀ x : U8, (pshift x).toNat = x.toNat / 2 ^ popcnt8 x) ∧
  pshift 0x00#8 = 0x00#8 ∧ pshift 0xFF#8 = 0x00#8 ∧ pshift 0x80#8 = 0x40#8 ∧
  (∀ x : U8, (pshift x).toNat ≤ 0x40 ∧ (pshift x = 0x40#8 ↔ x = 0x80#8) ∧ (pshift x).getLsbD 7 = false)

/-- The masks, the class bias and the recentred offset for each N in [2,7] (R107, R109, R140). -/
def Obligations.SmoothingConstants : Prop :=
  ([2, 3, 4, 5, 6, 7].map (fun n => mask n 0xFF#8) = [0x03#8, 0x07#8, 0x0F#8, 0x1F#8, 0x3F#8, 0x7F#8]) ∧
  ([2, 3, 4, 5, 6, 7].map bias2 = [2#8, 2#8, 0#8, 1#8, 1#8, 1#8]) ∧
  (∀ (n : Nat) (x : U8), 2 ≤ n → n ≤ 7 → (mask n x).toNat = x.toNat % 2 ^ n) ∧
  (∀ (n : Nat) (c : U8), 2 ≤ n → n ≤ 7 → soff n c = u8 ((c.toNat : Int) - (2 ^ (n - 1) - 1))) ∧
  (∀ (n : Nat) (c : U8), 2 ≤ n → n ≤ 7 → c.toNat ≤ 2 ^ n - 1 →
    s8 (soff n c) = (c.toNat : Int) - (2 ^ (n - 1) - 1) ∧
    -(2 ^ (n - 1) - 1) ≤ s8 (soff n c) ∧ s8 (soff n c) ≤ 2 ^ (n - 1))

/-- The parity fixup is the complement for p = 0 and the increment for p = 1 (R110). -/
def Obligations.ParityFixupCases : Prop :=
  ∀ v : U8,
    fixup v 0#8 = ~~~v ∧ fixup v 1#8 = v + 1#8 ∧
    fixup v 0#8 = u8 (-(s8 v + 1)) ∧ fixup v 1#8 = u8 (s8 v + 1) ∧
    fixup 0x7F#8 0#8 = 0x80#8 ∧ fixup 0x7F#8 1#8 = 0x80#8

/-! ## Results, completion and frame of each operation -/

/-- BREV answers the operand with its bits reversed (R100). -/
def Obligations.BrevAnswersReversedBits : Prop :=
  ∀ (a : U8) (s : State), ∃ r : U8,
    exec (.brev a) s = .next { s with queue := s.queue.tail, taken := s.taken ++ [0#8 ++ r] } ∧
    ∀ i, i < 8 → r.getLsbD i = a.getLsbD (7 - i)

/-- BREV of BREV's result answers the operand (R117). -/
def Obligations.BrevIsAnInvolution : Prop :=
  ∀ (a : U8) (s : State), ∃ (r : U8) (t u : State),
    exec (.brev a) s = .next t ∧ t.taken = s.taken ++ [0#8 ++ r] ∧
    exec (.brev r) t = .next u ∧ u.taken = s.taken ++ [0#8 ++ r, 0#8 ++ a]

/-- ZZDEC answers the zigzag decoding: the formula of R102 and the closed form of R103 with its inverse. -/
def Obligations.ZzdecClosedForm : Prop :=
  ∀ (a : U8) (s : State), ∃ r : U8,
    exec (.zzdec a) s = .next { s with queue := s.queue.tail, taken := s.taken ++ [0#8 ++ r] } ∧
    r = (0#8 - (a &&& 1#8)) ^^^ (a >>> 1) ∧
    (a.toNat % 2 = 0 → r = a >>> 1 ∧ s8 r = (a.toNat : Int) / 2 ∧ 0 ≤ s8 r ∧ s8 r ≤ 127) ∧
    (a.toNat % 2 = 1 → r = ~~~(a >>> 1) ∧ s8 r = -(((a.toNat : Int) + 1) / 2) ∧ -128 ≤ s8 r ∧ s8 r ≤ -1) ∧
    zzEnc8 r = a

/-- Every byte is ZZDEC's answer to exactly one operand (R118). -/
def Obligations.ZzdecIsABijection : Prop :=
  ∀ (r : U8) (s : State), ∃ a : U8,
    exec (.zzdec a) s = .next { s with queue := s.queue.tail, taken := s.taken ++ [0#8 ++ r] } ∧
    ∀ a' : U8, exec (.zzdec a') s = exec (.zzdec a) s → a' = a

/-- PN1 in wide integers, narrowed once at the end: decoded product plus the top bit of b. -/
def Obligations.Pn1Answers : Prop :=
  ∀ (a b : U8) (s : State),
    exec (.pn1 a b) s = .next
      { s with
        queue := s.queue.tail
        taken := s.taken ++
          [0#8 ++ u8 (s8 (zz8 (brev8 (u8 ((a.toNat * (b ||| 0x80#8).toNat : Nat) : Int)))) + (b.toNat / 128 : Nat))] }

/-- PN1 rebuilt by a host from BREV and ZZDEC requests and its own multiply and add (R132). -/
def Obligations.Pn1IsThePrimitivesComposed : Prop :=
  ∀ (a b : U8) (s : State), ∃ (r1 r2 : U8) (t u : State),
    exec (.brev (BitVec.ofNat 8 (a.toNat * (b ||| 0x80#8).toNat))) s = .next t ∧ t.taken = s.taken ++ [0#8 ++ r1] ∧
    exec (.zzdec r1) t = .next u ∧ u.taken = t.taken ++ [0#8 ++ r2] ∧
    exec (.pn1 a b) s = .next { s with queue := s.queue.tail, taken := s.taken ++ [0#8 ++ (r2 + (b >>> 7))] }

/-- PSM with c in its precondition range: decoded product plus the recentred c, narrowed once at the end. -/
def Obligations.PsmAnswersInRange : Prop :=
  ∀ (n : Nat) (a b c : U8) (s : State), 2 ≤ n → n ≤ 7 → c.toNat ≤ 2 ^ n - 1 →
    exec (.psm n a b c) s = .next
      { s with
        queue := s.queue.tail
        taken := s.taken ++
          [0#8 ++ u8 (s8 (zz8 (brev8 (u8 ((a.toNat * (b ||| 0x80#8).toNat : Nat) : Int))))
            + ((c.toNat : Int) - (2 ^ (n - 1) - 1)))] }

/-- PSM with c out of range: no error, ILL and CAUSE 0, one response, RESULT by OOR_RESULT (R142). The free draw is the
model's (log entry 1). -/
def Obligations.PsmAnswersOutOfRange : Prop :=
  ∀ (n : Nat) (a b c : U8) (s : State), 2 ≤ n → n ≤ 7 → 2 ^ n - 1 < c.toNat → ∃ r : U8,
    exec (.psm n a b c) s = .next
      { s with queue := s.queue.tail, taken := s.taken ++ [0#8 ++ r], draws := s.draws + 1 } ∧
    r = match Config.oorResult with
        | .any => Config.freeByte s.draws
        | .wrap => zz8 (brev8 (a * (b ||| 0x80#8))) + (c - BitVec.ofNat 8 (2 ^ (n - 1) - 1))

/-- PSMS on every c: the smoothing operand is c modulo 2^N. -/
def Obligations.PsmsAnswers : Prop :=
  ∀ (n : Nat) (a b c : U8) (s : State), 2 ≤ n → n ≤ 7 →
    exec (.psms n a b c) s = .next
      { s with
        queue := s.queue.tail
        taken := s.taken ++
          [0#8 ++ u8 (s8 (zz8 (brev8 (u8 ((a.toNat * (b ||| 0x80#8).toNat : Nat) : Int))))
            + (((c.toNat % 2 ^ n : Nat) : Int) - (2 ^ (n - 1) - 1)))] }

/-- The masking equivalence law (R144). -/
def Obligations.PsmsIsPsmOfMaskedOperand : Prop :=
  ∀ (n : Nat) (a b c : U8) (s : State), 2 ≤ n → n ≤ 7 →
    exec (.psms n a b c) s = exec (.psm n a b (c &&& BitVec.ofNat 8 (2 ^ n - 1))) s ∧
    (c.toNat ≤ 2 ^ n - 1 → exec (.psms n a b c) s = exec (.psm n a b c) s)

/-- The sign bit of b decides nothing in PSM and PSMS, and in PN1 exactly the addend 0 or 1. For PSM with c out of range
the rule speaks of the formula, which `OOR_RESULT = WRAP` answers; under ANY the draw is unconstrained (R142). -/
def Obligations.SignBiasIsPn1Only : Prop :=
  (∀ (n : Nat) (a b c : U8) (s : State), 2 ≤ n → n ≤ 7 → c.toNat ≤ 2 ^ n - 1 →
    exec (.psm n a (b ^^^ 0x80#8) c) s = exec (.psm n a b c) s) ∧
  (∀ (n : Nat) (a b c free : U8), 2 ≤ n → n ≤ 7 →
    psmByte .wrap free n a (b ^^^ 0x80#8) c = psmByte .wrap free n a b c) ∧
  (∀ (n : Nat) (a b c : U8) (s : State), 2 ≤ n → n ≤ 7 →
    exec (.psms n a (b ^^^ 0x80#8) c) s = exec (.psms n a b c) s) ∧
  (∀ (a b : U8) (s : State), b.getLsbD 7 = false → ∃ r : U8,
    exec (.pn1 a b) s = .next { s with queue := s.queue.tail, taken := s.taken ++ [0#8 ++ r] } ∧
    exec (.pn1 a (b ^^^ 0x80#8)) s = .next { s with queue := s.queue.tail, taken := s.taken ++ [0#8 ++ (r + 1#8)] })

/-- The closed form of PN2 (R164), for its function on every b and for its answer to an in-range b. -/
def Obligations.Pn2ClosedForm : Prop :=
  ∀ (n : Nat) (a b : U8), 2 ≤ n → n ≤ 7 → ∀ w : Int,
    w = s8 (zz8 (pshift a)) + ((bias2 n).toNat : Int) + ((b.toNat / 2 : Nat) : Int) - 2 ^ (n - 2) →
    pn2F n a b = u8 (if b.getLsbD 0 then w + 1 else -(w + 1)) ∧
    (b.toNat ≤ 2 ^ n - 1 → ∀ s : State,
      exec (.pn2 n a b) s = .next
        { s with
          queue := s.queue.tail
          taken := s.taken ++ [0#8 ++ u8 (if b.getLsbD 0 then w + 1 else -(w + 1))] })

/-- In range, PN2 answers within -65..65, and 65 in magnitude only at N = 7, a = 0x80, b = 0x7F or 0x7E. -/
def Obligations.Pn2MagnitudeBound : Prop :=
  ∀ (n : Nat) (a b : U8) (s : State), 2 ≤ n → n ≤ 7 → b.toNat ≤ 2 ^ n - 1 → ∃ r : U8,
    exec (.pn2 n a b) s = .next { s with queue := s.queue.tail, taken := s.taken ++ [0#8 ++ r] } ∧
    -65 ≤ s8 r ∧ s8 r ≤ 65 ∧
    (s8 r = 65 ↔ n = 7 ∧ a = 0x80#8 ∧ b = 0x7F#8) ∧ (s8 r = -65 ↔ n = 7 ∧ a = 0x80#8 ∧ b = 0x7E#8)

/-- PN2 with b out of range: no error, ILL 0, one response, RESULT by OOR_RESULT (R161). The free draw is the model's
(log entry 1). -/
def Obligations.Pn2AnswersOutOfRange : Prop :=
  ∀ (n : Nat) (a b : U8) (s : State), 2 ≤ n → n ≤ 7 → 2 ^ n - 1 < b.toNat → ∃ r : U8,
    exec (.pn2 n a b) s = .next
      { s with queue := s.queue.tail, taken := s.taken ++ [0#8 ++ r], draws := s.draws + 1 } ∧
    r = match Config.oorResult with
        | .any => Config.freeByte s.draws
        | .wrap => pn2F n a b

/-- PN2S on every b: PN2's closed form on b modulo 2^N. -/
def Obligations.Pn2sAnswers : Prop :=
  ∀ (n : Nat) (a b : U8) (s : State), 2 ≤ n → n ≤ 7 → ∀ w : Int,
    w = s8 (zz8 (pshift a)) + ((bias2 n).toNat : Int) + ((b.toNat % 2 ^ n / 2 : Nat) : Int) - 2 ^ (n - 2) →
    exec (.pn2s n a b) s = .next
      { s with
        queue := s.queue.tail
        taken := s.taken ++ [0#8 ++ u8 (if b.getLsbD 0 then w + 1 else -(w + 1))] }

/-- The masking equivalence law for PN2 (R163). -/
def Obligations.Pn2sIsPn2OfMaskedOperand : Prop :=
  ∀ (n : Nat) (a b : U8) (s : State), 2 ≤ n → n ≤ 7 →
    exec (.pn2s n a b) s = exec (.pn2 n a (b &&& BitVec.ofNat 8 (2 ^ n - 1))) s

/-- The closed form of TINY, without wrap (R181; the formula is decision D12, log entry 13). -/
def Obligations.TinyClosedForm : Prop :=
  ∀ (a : U8) (s : State), ∃ r : U8,
    exec (.tiny a) s = .next { s with queue := s.queue.tail, taken := s.taken ++ [0#8 ++ r] } ∧
    ∀ w : Int, w = s8 (zz8 (pshift (a >>> 2))) + ((a.getLsbD 1).toNat : Int) →
      s8 r = (if a.getLsbD 0 then w + 1 else -(w + 1)) ∧ -10 ≤ w + 1 ∧ w + 1 ≤ 10

/-- No legal request raises an exception: every operation answers one response with ILL = 0 and CAUSE = 0 (R203). -/
def Obligations.NoExecutionTimeException : Prop :=
  ∀ (i : Instr) (s : State), ∃ (r : U8) (d : Nat),
    exec i s = .next { s with queue := s.queue.tail, taken := s.taken ++ [0#8 ++ r], draws := d } ∧
    (d = s.draws ∨ d = s.draws + 1)

/-! ## The machine -/

/-- A step at which a response is taken runs the operation decoded from Q's head, and finishes the edge around it. -/
def Obligations.StepRunsTheDecodedHead : Prop :=
  ∀ (s : State) (f : Flight) (rest : List Flight) (i : Instr),
    s.queue = f :: rest → decode f.word = .legal i →
    s.holdBroken s.nextEdge = false → s.takesResponse s.nextEdge = true →
    step s = afterNext (s.finishEdge s.nextEdge) (exec i s) ∧
    ∃ t, exec i s = .next t ∧ step s = .next (s.finishEdge s.nextEdge t)

/-- An illegal head gets its one response in its place, `0x0100 | (k << 9)`, and changes nothing else but Q; the run then
counts as faulted. The next state is the model's reading (log entry 5). -/
def Obligations.StepReportsAnIllegalHead : Prop :=
  ∀ (s : State) (f : Flight) (rest : List Flight) (c : Cause),
    s.queue = f :: rest → decode f.word = .illegal c →
    s.holdBroken s.nextEdge = false → s.takesResponse s.nextEdge = true →
    ∃ r : RspWord,
      r = 0x0100#16 ||| (c.code.setWidth 16 <<< 9) ∧
      r = (match c with | .reservedOp => 0x0300#16 | .reservedBit => 0x0500#16 | .badN => 0x0700#16) ∧
      step s = .next (s.finishEdge s.nextEdge { s with queue := rest, taken := s.taken ++ [r] }) ∧
      (s.finishEdge s.nextEdge { s with queue := rest, taken := s.taken ++ [r] }).runFaulted = true

/-- Decoding and running Q's head answers RESP of its word as R67 computes it from the bits. That the draw is freeByte at
the counter, and that the counter advances exactly where OOR_RESULT decides, is the model's choice (log entry 1). -/
def Obligations.ServedHeadAnswersResp : Prop :=
  ∀ (s : State) (f : Flight) (rest : List Flight), s.queue = f :: rest →
    serveHead s = .next
      { s with
        queue := rest
        taken := s.taken ++ [resp Config.oorResult (Config.freeByte s.draws) f.word]
        draws := if oorWord f.word then s.draws + 1 else s.draws }

/-- All one edge without reset does: what leaves Q, what joins it, what the host has, when `rsp_valid` stays up or rises,
and which request the host must hold; nothing else is delivered or accepted. That Q's room is read before the edge is the
model's reading (log entry 12), as is the counting of LAT (log entry 7). -/
def Obligations.HandshakesMoveWholeWords : Prop :=
  ∀ (s : State) (e : Edge), e = s.nextEdge → s.holdBroken e = false → e.rst = false →
    ∃ t, step s = .next t ∧
      (s.acceptsRequest e = true ↔ e.reqValid = true ∧ e.offerReady = true ∧ s.queue.length < Config.depth) ∧
      (s.takesResponse e = true ↔ e.rspReady = true ∧ s.rspValid = true ∧ s.queue ≠ []) ∧
      t.queue = (if s.takesResponse e then s.queue.tail else s.queue).map (fun f => ⟨f.word, f.cycles + 1⟩)
        ++ (if s.acceptsRequest e then [⟨e.reqWord, 1⟩] else []) ∧
      (t.rspValid = true ↔
        (s.rspValidOut e = true ∧ s.takesResponse e = false) ∨
        (e.raiseValid = true ∧ ∃ f, t.queue.head? = some f ∧ Config.lat ≤ f.cycles)) ∧
      t.pending = (if e.reqValid && !s.acceptsRequest e then some e.reqWord else none) ∧
      t.schedule = s.schedule.tail ∧
      t.accepted = s.accepted ++ (if s.acceptsRequest e then [e.reqWord] else []) ∧
      t.taken = s.taken ++ (if s.takesResponse e then [s.rspWord e] else []) ∧
      t.past = s.past ∧ (s.takesResponse e = false → t.draws = s.draws)

/-- Once raised, `rsp_valid` and `rsp_word` stay until the response is taken, at whatever edge comes next without
reset. -/
def Obligations.ResponseIsStableUntilTaken : Prop :=
  ∀ (s : State), s.holdBroken s.nextEdge = false →
    s.rspValidOut s.nextEdge = true → s.takesResponse s.nextEdge = false →
    ∃ t, step s = .next t ∧ t.rspValid = true ∧
      ∀ e : Edge, e.rst = false → t.rspValidOut e = true ∧ t.rspWord e = s.rspWord s.nextEdge

/-- An edge under reset: nothing is ready or valid, Q is emptied, requests in flight are lost without a response. A request
presented at it stays to be held (the model's reading, log entry 6), and earlier responses stay on record (log entry 9). -/
def Obligations.ResetDiscardsRequestsInFlight : Prop :=
  ∀ (s : State) (e : Edge), e = s.nextEdge → e.rst = true →
    s.reqReady e = false ∧ s.rspValidOut e = false ∧
    (s.holdBroken e = false → ∃ t, step s = .next t ∧ t.queue = [] ∧ t.rspValid = false ∧
      t.pending = (if e.reqValid then some e.reqWord else none) ∧ t.schedule = s.schedule.tail ∧
      t.taken = [] ∧ t.accepted = [] ∧ t.past = s.past ++ s.taken)

/-- After reset Q is empty and no response is valid at any edge. -/
def Obligations.ResetLeavesQueueEmpty : Prop :=
  State.reset.queue = [] ∧ (∀ e : Edge, State.reset.rspValidOut e = false) ∧
  (∀ (s : State) (e : Edge), e.rst = true → s.reqReady e = false)

/-- A full Q holds `req_ready` 0, and a host that never takes a response stalls the request channel for good: nothing is
accepted, lost or overwritten (R235). -/
def Obligations.FullQueueStallsForGood : Prop :=
  ∀ (s : State), s.queue.length = Config.depth →
    (∀ e : Edge, s.reqReady e = false) ∧
    ∀ (k : Nat) (t : State), (∀ e ∈ s.schedule, e.rst = false ∧ e.rspReady = false) →
      Host.Core.run Sys2Proof.core k s = .next t →
      t.words = s.words ∧ t.taken = s.taken ∧ t.accepted = s.accepted ∧ ∀ e : Edge, t.reqReady e = false

/-- A host that drops or changes a request it has presented faults the run. That it does so at a reset edge too is the
model's reading (log entry 6). -/
def Obligations.BrokenHoldFaults : Prop :=
  ∀ (s : State) (w : ReqWord), s.pending = some w →
    s.nextEdge.reqValid = false ∨ s.nextEdge.reqWord ≠ w → step s = .fault .requestNotHeld

/-- Nothing but a broken hold stops a step: no operand, no word, no schedule does. That a broken hold stops it at a reset
edge too is the model's reading (log entry 6). -/
def Obligations.StepStopsOnlyOnBrokenHold : Prop :=
  ∀ s : State,
    (s.holdBroken s.nextEdge = false ∧ ∃ t, step s = .next t) ∨
    (s.holdBroken s.nextEdge = true ∧ step s = .fault .requestNotHeld)

/-- Every step keeps the invariant of Q: capacity, LAT, order and one acceptance a cycle. -/
def Obligations.StepKeepsQueueInvariant : Prop :=
  ∀ s t : State, s.QueueInv → step s = .next t → t.QueueInv

/-- Every step keeps the response order: the k-th response taken after a reset is RESP of the k-th request accepted after
it (R45). -/
def Obligations.StepKeepsResponseOrder : Prop :=
  ∀ s t : State, s.OrderInv → step s = .next t → t.OrderInv

/-- Every step keeps the form of the response words (R61). -/
def Obligations.StepKeepsResponseFormat : Prop :=
  ∀ s t : State, s.FormatInv → step s = .next t → t.FormatInv

/-- The state after reset meets the three invariants, whatever schedule it is given. -/
def Obligations.ResetMeetsTheInvariants : Prop :=
  ∀ es : List Edge,
    ({ State.reset with schedule := es } : State).QueueInv ∧ ({ State.reset with schedule := es } : State).OrderInv ∧
    ({ State.reset with schedule := es } : State).FormatInv

/-- Over any number of edges and any schedule the responses are RESP of the requests in order; where no accepted word has
an out-of-range smoothing operand they are one fixed sequence, whatever LAT, DEPTH, OOR_RESULT and the draws are. -/
def Obligations.ResponsesAreTheSameForEverySchedule : Prop :=
  ∀ (k : Nat) (s t : State), s.OrderInv → Host.Core.run Sys2Proof.core k s = .next t →
    t.OrderInv ∧
    ((∀ w ∈ t.accepted, oorWord w = false) → ∀ (o : OorResult) (free : U8),
      t.taken = (t.accepted.take t.taken.length).map (resp o free))

/-- The response to a request word is the same in any two states, whatever else they hold (R46). -/
def Obligations.ResponseDependsOnItsWordAlone : Prop :=
  ∀ (s s' : State) (f f' : Flight) (rest rest' : List Flight),
    s.queue = f :: rest → s'.queue = f' :: rest' → f.word = f'.word → oorWord f.word = false →
    s.holdBroken s.nextEdge = false → s'.holdBroken s'.nextEdge = false →
    s.takesResponse s.nextEdge = true → s'.takesResponse s'.nextEdge = true →
    ∃ (r : RspWord) (t t' : State),
      step s = .next t ∧ step s' = .next t' ∧ t.taken = s.taken ++ [r] ∧ t'.taken = s'.taken ++ [r]

/-- Over any number of edges from a state in response order the response order holds (R45); and when a run has ended, Q is
empty and the observation, the responses taken, answers the program word by word (R236). -/
def Obligations.EndedRunLeavesQueueEmpty : Prop :=
  ∀ (k : Nat) (s t : State) (program : List ReqWord),
    s.OrderInv → Host.Core.run Sys2Proof.core k s = .next t →
    t.OrderInv ∧ (t.runEnded program → t.queue = [] ∧ List.Forall₂ Admissible program t.taken)

/-- One request over a unit and a host that are always ready: accepted at the first edge, not answered at any of the
next LAT - 1 edges, answered at the edge LAT cycles after its acceptance, with Q then empty. The edge count is the model's
reading of LAT (log entry 7). -/
def Obligations.RequestIsAnsweredAfterLat : Prop :=
  ∀ (w : ReqWord) (start : State),
    start = { State.reset with
      schedule := ⟨false, true, w, true, true, true⟩ :: List.replicate Config.lat ⟨false, false, 0#32, true, true, true⟩ } →
    (∀ k, k ≤ Config.lat → ∃ t : State, Host.Core.run Sys2Proof.core k start = .next t ∧ t.taken = []) ∧
    ∃ (t : State) (r : RspWord), Host.Core.run Sys2Proof.core (Config.lat + 1) start = .next t ∧
      t.accepted = [w] ∧ t.taken = [r] ∧ t.queue = [] ∧ Admissible w r

/-! ## The assembler -/

/-- A line of an operation that assembles has passed the static checks of R75: `.N` in [2,7] where the operation has one
and absent where not, the number of operands of its form, each in -128..255, the smoothing operand of PSM and PN2 in range;
and its word decodes to that operation on those operands. A line of PSM or PN2 that fails at the smoothing operand alone is
referred to the `_safe` form. A smoothing literal is compared as the byte it stands for (the model's reading, log entry
17). -/
def Obligations.AssembledLinesAreLegal : Prop :=
  (∀ (op : AsmOp) (width : Option Nat) (operands : List Int) (w : ReqWord),
    assemble (.request op width operands) = .ok w →
    operands.length = (match op with
      | .brev => 1 | .zzdec => 1 | .pn1 => 2 | .psm => 3 | .psms => 3 | .pn2 => 2 | .pn2s => 2 | .tiny => 1) ∧
    (∀ v ∈ operands, -128 ≤ v ∧ v ≤ 255) ∧
    ∃ i : Instr, i.wf = true ∧ decode w = .legal i ∧ oorWord w = false ∧ i.width = width ∧
      i.opcode = (match op with
        | .brev => 0x0#4 | .zzdec => 0x1#4 | .pn1 => 0x2#4 | .psm => 0x3#4 | .psms => 0x4#4 | .pn2 => 0x5#4
        | .pn2s => 0x6#4 | .tiny => 0x7#4) ∧
      i = op.instr (width.getD 0) (u8 (operands.getD 0 0)) (u8 (operands.getD 1 0)) (u8 (operands.getD 2 0))) ∧
  (∀ (n : Nat) (x y z : Int), 2 ≤ n → n ≤ 7 → -128 ≤ x → x ≤ 255 → -128 ≤ y → y ≤ 255 → -128 ≤ z → z ≤ 255 →
    (2 ^ n - 1 < (u8 z).toNat → assemble (.request .psm (some n) [x, y, z]) = .error .useSafeForm) ∧
    (2 ^ n - 1 < (u8 y).toNat → assemble (.request .pn2 (some n) [x, y]) = .error .useSafeForm)) ∧
  (∀ w : Nat, 2 ^ 32 ≤ w → assemble (.word w) = .error .operandRange)

/-- Each form of R73 assembles to the encoding of its operation, whatever unsigned or signed literals in -128..255 it has
(smoothing literals of PSM and PN2 in range); a literal stands for its byte; `.word` is emitted unchecked. -/
def Obligations.AssemblyForms : Prop :=
  (∀ a : U8, u8 (a.toNat : Int) = a ∧ u8 (s8 a) = a) ∧
  (∀ x y : Int, -128 ≤ x → x ≤ 255 → -128 ≤ y → y ≤ 255 →
    assemble (.request .brev none [x]) = .ok (encode (.brev (u8 x))) ∧
    assemble (.request .zzdec none [x]) = .ok (encode (.zzdec (u8 x))) ∧
    assemble (.request .pn1 none [x, y]) = .ok (encode (.pn1 (u8 x) (u8 y))) ∧
    assemble (.request .tiny none [x]) = .ok (encode (.tiny (u8 x)))) ∧
  (∀ (n : Nat) (x y z : Int), 2 ≤ n → n ≤ 7 → -128 ≤ x → x ≤ 255 → -128 ≤ y → y ≤ 255 → -128 ≤ z → z ≤ 255 →
    assemble (.request .psms (some n) [x, y, z]) = .ok (encode (.psms n (u8 x) (u8 y) (u8 z))) ∧
    assemble (.request .pn2s (some n) [x, y]) = .ok (encode (.pn2s n (u8 x) (u8 y))) ∧
    ((u8 z).toNat ≤ 2 ^ n - 1 →
      assemble (.request .psm (some n) [x, y, z]) = .ok (encode (.psm n (u8 x) (u8 y) (u8 z)))) ∧
    ((u8 y).toNat ≤ 2 ^ n - 1 →
      assemble (.request .pn2 (some n) [x, y]) = .ok (encode (.pn2 n (u8 x) (u8 y))))) ∧
  (∀ w : ReqWord, assemble (.word w.toNat) = .ok w)

/-- The source's function names stand for the mnemonics, and no other name is known (R74). -/
def Obligations.AliasesNameTheirMnemonics : Prop :=
  asmOpOf "bit_reverse".toList = asmOpOf "BREV".toList ∧
  asmOpOf "zigzag_decode".toList = asmOpOf "ZZDEC".toList ∧
  asmOpOf "paranormal_1".toList = asmOpOf "PN1".toList ∧
  asmOpOf "to_paranormal".toList = asmOpOf "PN1".toList ∧
  asmOpOf "paranormal_smooth".toList = asmOpOf "PSM".toList ∧
  asmOpOf "to_smooth_paranormal".toList = asmOpOf "PSM".toList ∧
  asmOpOf "paranormal_smooth_safe".toList = asmOpOf "PSMS".toList ∧
  asmOpOf "paranormal2".toList = asmOpOf "PN2".toList ∧
  asmOpOf "paranormal2_safe".toList = asmOpOf "PN2S".toList ∧
  asmOpOf "tiny_paranormal".toList = asmOpOf "TINY".toList ∧
  [asmOpOf "BREV".toList, asmOpOf "ZZDEC".toList, asmOpOf "PN1".toList, asmOpOf "PSM".toList, asmOpOf "PSMS".toList,
    asmOpOf "PN2".toList, asmOpOf "PN2S".toList, asmOpOf "TINY".toList]
    = [some .brev, some .zzdec, some .pn1, some .psm, some .psms, some .pn2, some .pn2s, some .tiny] ∧
  asmNames.length = 18 ∧ (asmNames.map Prod.fst).Nodup
end

