-- ==== Sys2Proof/Laws/Decode.lean ====
section
/-! SUPPORT. The bits and fields of a packed request word (30_encoding.md R60, R73). -/

namespace Sys2Proof

theorem packWord_getLsbD (c b a d : U8) (i : Nat) :
    (packWord c b a d).getLsbD i =
      if i < 8 then d.getLsbD i
      else if i < 16 then a.getLsbD (i - 8)
      else if i < 24 then b.getLsbD (i - 16)
      else c.getLsbD (i - 24) := by
  simp only [packWord, BitVec.getLsbD_cast, BitVec.getLsbD_append]
  split_ifs <;> first | rfl | omega

theorem commandByte_getLsbD (n : Nat) (op : BitVec 4) (i : Nat) :
    (commandByte n op).getLsbD i = if i < 4 then op.getLsbD i else (BitVec.ofNat 3 n).getLsbD (i - 4) := by
  simp only [commandByte, BitVec.getLsbD_cast, BitVec.getLsbD_append]
  split_ifs with h1 h2
  · rfl
  · rfl
  · rw [BitVec.getLsbD_of_ge (BitVec.ofNat 3 n) (i - 4) (by omega)]
    simp

@[simp] theorem commandField_packWord (c b a d : U8) : (packWord c b a d).extractLsb' 0 8 = d := by
  apply BitVec.eq_of_getLsbD_eq
  intro i hi
  simp [packWord_getLsbD, hi]

@[simp] theorem aField_packWord (c b a d : U8) : aField (packWord c b a d) = a := by
  apply BitVec.eq_of_getLsbD_eq
  intro i hi
  have h1 : ¬ 8 + i < 8 := by omega
  have h2 : 8 + i < 16 := by omega
  have h3 : 8 + i - 8 = i := by omega
  simp only [aField, BitVec.getLsbD_extractLsb', packWord_getLsbD, h1, h2, h3, hi]
  simp

@[simp] theorem bField_packWord (c b a d : U8) : bField (packWord c b a d) = b := by
  apply BitVec.eq_of_getLsbD_eq
  intro i hi
  have h1 : ¬ 16 + i < 8 := by omega
  have h2 : ¬ 16 + i < 16 := by omega
  have h3 : 16 + i < 24 := by omega
  have h4 : 16 + i - 16 = i := by omega
  simp only [bField, BitVec.getLsbD_extractLsb', packWord_getLsbD, h1, h2, h3, h4, hi]
  simp

@[simp] theorem cField_packWord (c b a d : U8) : cField (packWord c b a d) = c := by
  apply BitVec.eq_of_getLsbD_eq
  intro i hi
  have h1 : ¬ 24 + i < 8 := by omega
  have h2 : ¬ 24 + i < 16 := by omega
  have h3 : ¬ 24 + i < 24 := by omega
  have h4 : 24 + i - 24 = i := by omega
  simp only [cField, BitVec.getLsbD_extractLsb', packWord_getLsbD, h1, h2, h3, h4, hi]
  simp

@[simp] theorem opField_packWord (c b a : U8) (n : Nat) (op : BitVec 4) :
    opField (packWord c b a (commandByte n op)) = op := by
  apply BitVec.eq_of_getLsbD_eq
  intro i hi
  have h1 : i < 8 := by omega
  simp only [opField, BitVec.getLsbD_extractLsb', packWord_getLsbD, commandByte_getLsbD, hi, h1, Nat.zero_add]
  simp

@[simp] theorem nselField_packWord (c b a : U8) (n : Nat) (op : BitVec 4) :
    nselField (packWord c b a (commandByte n op)) = BitVec.ofNat 3 n := by
  apply BitVec.eq_of_getLsbD_eq
  intro i hi
  have h1 : 4 + i < 8 := by omega
  have h2 : ¬ 4 + i < 4 := by omega
  have h3 : 4 + i - 4 = i := by omega
  simp only [nselField, BitVec.getLsbD_extractLsb', packWord_getLsbD, commandByte_getLsbD, hi, h1, h2, h3]
  simp

@[simp] theorem rsvField_packWord (c b a : U8) (n : Nat) (op : BitVec 4) :
    rsvField (packWord c b a (commandByte n op)) = false := by
  simp only [rsvField, packWord_getLsbD, commandByte_getLsbD]
  simp

theorem legalWidth_iff (n : Nat) : legalWidth n = true ↔ 2 ≤ n ∧ n ≤ 7 := by simp [legalWidth]

/-- A legal width survives the three bits of NSEL (R63). -/
theorem toNat_ofNat_of_legalWidth {n : Nat} (h : legalWidth n = true) : (BitVec.ofNat 3 n).toNat = n := by
  have := (legalWidth_iff n).1 h
  simp only [BitVec.toNat_ofNat]
  omega

/-- A word is its four bytes (R60). -/
theorem packWord_fields (w : ReqWord) : packWord (cField w) (bField w) (aField w) (w.extractLsb' 0 8) = w := by
  apply BitVec.eq_of_getLsbD_eq
  intro i hi
  simp only [packWord_getLsbD, aField, bField, cField, BitVec.getLsbD_extractLsb']
  split_ifs with h1 h2 h3
  · simp [h1]
  · simp [show i - 8 < 8 by omega, show 8 + (i - 8) = i by omega]
  · simp [show i - 16 < 8 by omega, show 16 + (i - 16) = i by omega]
  · simp [show i - 24 < 8 by omega, show 24 + (i - 24) = i by omega]

/-- OP, NSEL and RSV are fields of the command byte (R60). -/
theorem opField_eq_command (w : ReqWord) : opField w = (w.extractLsb' 0 8).extractLsb' 0 4 := by
  apply BitVec.eq_of_getLsbD_eq
  intro i hi
  simp [opField, hi]

theorem nselField_eq_command (w : ReqWord) : nselField w = (w.extractLsb' 0 8).extractLsb' 4 3 := by
  apply BitVec.eq_of_getLsbD_eq
  intro i hi
  simp [nselField, hi]

theorem rsvField_eq_command (w : ReqWord) : rsvField w = (w.extractLsb' 0 8).getLsbD 7 := by
  simp [rsvField]

end Sys2Proof
end

