-- ==== Sys2Proof/Laws/State.lean ====
section
/-! SUPPORT. One lemma per field per update of the state, so that no proof unfolds a record update. -/

namespace Sys2Proof.Machine

@[simp] theorem State.deliver_queue (r : RspWord) (s : State) :
    (s.deliver r).queue = s.queue.tail := rfl
@[simp] theorem State.deliver_rspValid (r : RspWord) (s : State) :
    (s.deliver r).rspValid = s.rspValid := rfl
@[simp] theorem State.deliver_pending (r : RspWord) (s : State) :
    (s.deliver r).pending = s.pending := rfl
@[simp] theorem State.deliver_schedule (r : RspWord) (s : State) :
    (s.deliver r).schedule = s.schedule := rfl
@[simp] theorem State.deliver_accepted (r : RspWord) (s : State) :
    (s.deliver r).accepted = s.accepted := rfl
@[simp] theorem State.deliver_taken (r : RspWord) (s : State) :
    (s.deliver r).taken = s.taken ++ [r] := rfl
@[simp] theorem State.deliver_past (r : RspWord) (s : State) :
    (s.deliver r).past = s.past := rfl
@[simp] theorem State.deliver_draws (r : RspWord) (s : State) :
    (s.deliver r).draws = s.draws := rfl
@[simp] theorem State.deliver_edges (r : RspWord) (s : State) :
    (s.deliver r).edges = s.edges := rfl

@[simp] theorem State.drawn_queue (s : State) :
    (s.drawn).queue = s.queue := rfl
@[simp] theorem State.drawn_rspValid (s : State) :
    (s.drawn).rspValid = s.rspValid := rfl
@[simp] theorem State.drawn_pending (s : State) :
    (s.drawn).pending = s.pending := rfl
@[simp] theorem State.drawn_schedule (s : State) :
    (s.drawn).schedule = s.schedule := rfl
@[simp] theorem State.drawn_accepted (s : State) :
    (s.drawn).accepted = s.accepted := rfl
@[simp] theorem State.drawn_taken (s : State) :
    (s.drawn).taken = s.taken := rfl
@[simp] theorem State.drawn_past (s : State) :
    (s.drawn).past = s.past := rfl
@[simp] theorem State.drawn_draws (s : State) :
    (s.drawn).draws = s.draws + 1 := rfl
@[simp] theorem State.drawn_edges (s : State) :
    (s.drawn).edges = s.edges := rfl

@[simp] theorem State.finishEdge_queue (s : State) (e : Edge) (t : State) :
    (s.finishEdge e t).queue = t.queue.map Flight.tick ++ s.arrivals e := rfl
@[simp] theorem State.finishEdge_rspValid (s : State) (e : Edge) (t : State) :
    (s.finishEdge e t).rspValid = ((s.rspValidOut e && !s.takesResponse e)
      || (e.raiseValid && headReady (t.queue.map Flight.tick ++ s.arrivals e))) := rfl
@[simp] theorem State.finishEdge_pending (s : State) (e : Edge) (t : State) :
    (s.finishEdge e t).pending = if e.reqValid && !s.acceptsRequest e then some e.reqWord else none := rfl
@[simp] theorem State.finishEdge_schedule (s : State) (e : Edge) (t : State) :
    (s.finishEdge e t).schedule = t.schedule.tail := rfl
@[simp] theorem State.finishEdge_accepted (s : State) (e : Edge) (t : State) :
    (s.finishEdge e t).accepted = t.accepted ++ (s.arrivals e).map Flight.word := rfl
@[simp] theorem State.finishEdge_taken (s : State) (e : Edge) (t : State) :
    (s.finishEdge e t).taken = t.taken := rfl
@[simp] theorem State.finishEdge_past (s : State) (e : Edge) (t : State) :
    (s.finishEdge e t).past = t.past := rfl
@[simp] theorem State.finishEdge_draws (s : State) (e : Edge) (t : State) :
    (s.finishEdge e t).draws = t.draws := rfl
@[simp] theorem State.finishEdge_edges (s : State) (e : Edge) (t : State) :
    (s.finishEdge e t).edges = t.edges + 1 := rfl

@[simp] theorem State.resetEdge_queue (s : State) (e : Edge) :
    (s.resetEdge e).queue = [] := rfl
@[simp] theorem State.resetEdge_rspValid (s : State) (e : Edge) :
    (s.resetEdge e).rspValid = false := rfl
@[simp] theorem State.resetEdge_pending (s : State) (e : Edge) :
    (s.resetEdge e).pending = if e.reqValid then some e.reqWord else none := rfl
@[simp] theorem State.resetEdge_schedule (s : State) (e : Edge) :
    (s.resetEdge e).schedule = s.schedule.tail := rfl
@[simp] theorem State.resetEdge_accepted (s : State) (e : Edge) :
    (s.resetEdge e).accepted = [] := rfl
@[simp] theorem State.resetEdge_taken (s : State) (e : Edge) :
    (s.resetEdge e).taken = [] := rfl
@[simp] theorem State.resetEdge_past (s : State) (e : Edge) :
    (s.resetEdge e).past = s.past ++ s.taken := rfl
@[simp] theorem State.resetEdge_draws (s : State) (e : Edge) :
    (s.resetEdge e).draws = s.draws + 1 := rfl
@[simp] theorem State.resetEdge_edges (s : State) (e : Edge) :
    (s.resetEdge e).edges = s.edges + 1 := rfl

@[simp] theorem State.reset_queue : State.reset.queue = [] := rfl
@[simp] theorem State.reset_rspValid : State.reset.rspValid = false := rfl
@[simp] theorem State.reset_pending : State.reset.pending = none := rfl
@[simp] theorem State.reset_schedule : State.reset.schedule = [] := rfl
@[simp] theorem State.reset_accepted : State.reset.accepted = [] := rfl
@[simp] theorem State.reset_taken : State.reset.taken = [] := rfl
@[simp] theorem State.reset_past : State.reset.past = [] := rfl

@[simp] theorem Flight.tick_word (f : Flight) : f.tick.word = f.word := rfl
@[simp] theorem Flight.tick_cycles (f : Flight) : f.tick.cycles = f.cycles + 1 := rfl

@[simp] theorem words_of_ticks (q : List Flight) : (q.map Flight.tick).map Flight.word = q.map Flight.word := by
  simp [Function.comp_def]

end Sys2Proof.Machine
end

