-- ==== Sys2Proof/Laws/Ops.lean ====
section
/-! SUPPORT. One lemma per shared operation: what it answers, or all it can do. -/

namespace Sys2Proof.Machine

theorem respond_next (r : U8) (s : State) : respond r s = .next (s.deliver (rspLegal r)) := rfl

theorem respondOutOfRange_next (v : U8) (s : State) :
    respondOutOfRange v s
      = .next (s.drawn.deliver (rspLegal (oorByte Config.oorResult (Config.freeByte s.draws) v))) := rfl

theorem raiseIllegal_next (c : Cause) (s : State) : raiseIllegal c s = .next (s.deliver (rspIllegal c)) := rfl

@[simp] theorem afterNext_next (f : State → State) (t : State) : afterNext f (.next t) = .next (f t) := rfl

/-- What an operation continued by `afterNext` can answer. -/
theorem afterNext_eq_next {f : State → State} {o : Host.Outcome State Fault Refusal} {u : State}
    (h : afterNext f o = .next u) : ∃ t, o = .next t ∧ u = f t := by
  cases o with
  | next t => exact ⟨t, rfl, by simpa [afterNext] using h.symm⟩
  | fault r => simp [afterNext] at h
  | refused r => simp [afterNext] at h

/-- A legal response word is `0x00RR` (R61). -/
theorem rspLegal_eq (r : U8) : rspLegal r = 0#8 ++ r := by revert r; decide

/-- The illegal response words (R201). -/
theorem rspIllegal_eq (c : Cause) :
    rspIllegal c = match c with | .reservedOp => 0x0300#16 | .reservedBit => 0x0500#16 | .badN => 0x0700#16 := by
  cases c <;> decide

@[simp] theorem illField_rspLegal (r : U8) : illField (rspLegal r) = false := by revert r; decide

@[simp] theorem resultField_rspLegal (r : U8) : resultField (rspLegal r) = r := by revert r; decide

@[simp] theorem illField_rspIllegal (c : Cause) : illField (rspIllegal c) = true := by cases c <;> decide

@[simp] theorem causeField_rspIllegal (c : Cause) : causeField (rspIllegal c) = c.code := by cases c <;> decide

theorem rspWellFormed_rspLegal (r : U8) : rspWellFormed (rspLegal r) = true := by revert r; decide

theorem rspWellFormed_rspIllegal (c : Cause) : rspWellFormed (rspIllegal c) = true := by cases c <;> decide

/-! ## Ports and handshakes -/

@[simp] theorem State.full_iff (s : State) : s.full = true ↔ Config.depth ≤ s.queue.length := by simp [State.full]

theorem State.reqReady_iff (s : State) (e : Edge) :
    s.reqReady e = true ↔ e.rst = false ∧ e.offerReady = true ∧ s.queue.length < Config.depth := by
  simp [State.reqReady, State.full]

theorem State.acceptsRequest_iff (s : State) (e : Edge) :
    s.acceptsRequest e = true ↔ e.reqValid = true ∧ s.reqReady e = true := by simp [State.acceptsRequest]

theorem State.rspValidOut_iff (s : State) (e : Edge) :
    s.rspValidOut e = true ↔ e.rst = false ∧ s.rspValid = true ∧ s.queue ≠ [] := by
  simp [State.rspValidOut]

theorem State.takesResponse_iff (s : State) (e : Edge) :
    s.takesResponse e = true ↔ e.rspReady = true ∧ s.rspValidOut e = true := by simp [State.takesResponse]

theorem State.holdBroken_none {s : State} (e : Edge) (h : s.pending = none) : s.holdBroken e = false := by
  simp [State.holdBroken, h]

theorem State.holdBroken_some {s : State} {w : ReqWord} (e : Edge) (h : s.pending = some w) :
    s.holdBroken e = true ↔ e.reqValid = false ∨ e.reqWord ≠ w := by
  cases hv : e.reqValid <;> simp [State.holdBroken, h, hv]

/-- Past the end of the schedule the host holds its request. -/
theorem State.holdBroken_idleEdge (s : State) : s.holdBroken s.idleEdge = false := by
  cases h : s.pending <;> simp [State.holdBroken, State.idleEdge, h]

@[simp] theorem State.nextEdge_cons {s : State} {e : Edge} {es : List Edge} (h : s.schedule = e :: es) :
    s.nextEdge = e := by simp [State.nextEdge, h]

theorem State.nextEdge_nil {s : State} (h : s.schedule = []) : s.nextEdge = s.idleEdge := by
  simp [State.nextEdge, h]

@[simp] theorem State.words_nil_iff (s : State) : s.words = [] ↔ s.queue = [] := by simp [State.words]

/-- An arrival is one entry, there exactly when a request is accepted. -/
theorem State.arrivals_cases (s : State) (e : Edge) :
    (s.acceptsRequest e = true ∧ s.arrivals e = [⟨e.reqWord, 1⟩]) ∨
    (s.acceptsRequest e = false ∧ s.arrivals e = []) := by
  cases h : s.acceptsRequest e <;> simp [State.arrivals, h]

@[simp] theorem headReady_cons (f : Flight) (q : List Flight) :
    headReady (f :: q) = decide (Config.lat ≤ f.cycles) := rfl

@[simp] theorem headReady_nil : headReady [] = false := rfl

theorem lat_pos : 1 ≤ Config.lat := by simp [Config.lat]

theorem depth_pos : 1 ≤ Config.depth := by simp [Config.depth]

end Sys2Proof.Machine
end

