-- ==== Sys2Proof/Laws/PerInstr.lean ====
section
/-! SUPPORT. Per operation: its encoding has RSV 0, its OP value, and its N in NSEL, 0 where it has none (30_encoding.md
R60, R62 to R65). -/

namespace Sys2Proof.Laws.EncodedFields

/-- The command byte of an operation's encoding. -/
def Statement (i : Instr) : Prop :=
  i.wf = true →
    opField (encode i) = i.opcode ∧ rsvField (encode i) = false ∧ (nselField (encode i)).toNat = i.width.getD 0

theorem brev (a : U8) : Statement (.brev a) := fun _ => by simp [encode, Instr.opcode, Instr.width]

theorem zzdec (a : U8) : Statement (.zzdec a) := fun _ => by simp [encode, Instr.opcode, Instr.width]

theorem pn1 (a b : U8) : Statement (.pn1 a b) := fun _ => by simp [encode, Instr.opcode, Instr.width]

theorem psm (n : Nat) (a b c : U8) : Statement (.psm n a b c) := fun h => by
  refine ⟨by simp [encode, Instr.opcode], by simp [encode], ?_⟩
  simpa [encode, Instr.width] using toNat_ofNat_of_legalWidth h

theorem psms (n : Nat) (a b c : U8) : Statement (.psms n a b c) := fun h => by
  refine ⟨by simp [encode, Instr.opcode], by simp [encode], ?_⟩
  simpa [encode, Instr.width] using toNat_ofNat_of_legalWidth h

theorem pn2 (n : Nat) (a b : U8) : Statement (.pn2 n a b) := fun h => by
  refine ⟨by simp [encode, Instr.opcode], by simp [encode], ?_⟩
  simpa [encode, Instr.width] using toNat_ofNat_of_legalWidth h

theorem pn2s (n : Nat) (a b : U8) : Statement (.pn2s n a b) := fun h => by
  refine ⟨by simp [encode, Instr.opcode], by simp [encode], ?_⟩
  simpa [encode, Instr.width] using toNat_ofNat_of_legalWidth h

theorem tiny (a : U8) : Statement (.tiny a) := fun _ => by simp [encode, Instr.opcode, Instr.width]

end Sys2Proof.Laws.EncodedFields
end

