-- ==== Sys2Proof/Laws/Step.lean ====
section
/-! SUPPORT. All a step can do, said once. -/

namespace Sys2Proof.Machine

/-- All a meaning can do: it answers one legal response and may use up a draw. -/
theorem exec_cases (i : Instr) (s : State) :
    (∃ r : U8, exec i s = .next (s.deliver (rspLegal r))) ∨
    (∃ r : U8, exec i s = .next (s.drawn.deliver (rspLegal r))) := by
  cases i with
  | brev a => exact .inl ⟨_, rfl⟩
  | zzdec a => exact .inl ⟨_, rfl⟩
  | pn1 a b => exact .inl ⟨_, rfl⟩
  | psm n a b c =>
    by_cases h : inRange n c = true
    · exact .inl ⟨psmF n a b c, by simp [exec, execPsm, h, respond]⟩
    · exact .inr ⟨_, by simp only [exec, execPsm, h]; rfl⟩
  | psms n a b c => exact .inl ⟨_, rfl⟩
  | pn2 n a b =>
    by_cases h : inRange n b = true
    · exact .inl ⟨pn2F n a b, by simp [exec, execPn2, h, respond]⟩
    · exact .inr ⟨_, by simp only [exec, execPn2, h]; rfl⟩
  | pn2s n a b => exact .inl ⟨_, rfl⟩
  | tiny a => exact .inl ⟨_, rfl⟩

/-- Serving a non-empty Q answers one response word of a form of R61, at most using up a draw. -/
theorem serveHead_cases {s : State} {f : Flight} {rest : List Flight} (h : s.queue = f :: rest) :
    ∃ r : RspWord, rspWellFormed r = true ∧
      (serveHead s = .next (s.deliver r) ∨ serveHead s = .next (s.drawn.deliver r)) := by
  cases hd : decode f.word with
  | illegal c => exact ⟨rspIllegal c, rspWellFormed_rspIllegal c, .inl (by simp [serveHead, h, hd, raiseIllegal])⟩
  | legal i =>
    rcases exec_cases i s with ⟨r, hr⟩ | ⟨r, hr⟩
    · exact ⟨rspLegal r, rspWellFormed_rspLegal r, .inl (by simp [serveHead, h, hd, hr])⟩
    · exact ⟨rspLegal r, rspWellFormed_rspLegal r, .inr (by simp [serveHead, h, hd, hr])⟩

/-- A step with a next state kept the hold, and was a reset edge, an edge at which Q's head was served, or an edge without
a response. -/
theorem step_cases {s t : State} (h : step s = .next t) :
    s.holdBroken s.nextEdge = false ∧
    ((s.nextEdge.rst = true ∧ t = s.resetEdge s.nextEdge) ∨
     (s.nextEdge.rst = false ∧ s.takesResponse s.nextEdge = true ∧
        ∃ u, serveHead s = .next u ∧ t = s.finishEdge s.nextEdge u) ∨
     (s.nextEdge.rst = false ∧ s.takesResponse s.nextEdge = false ∧ t = s.finishEdge s.nextEdge s)) := by
  unfold step at h
  split at h
  · cases h
  · rename_i hb
    refine ⟨by simpa using hb, ?_⟩
    unfold clockEdge at h
    split at h
    · rename_i hr
      exact .inl ⟨hr, by simpa using h.symm⟩
    · rename_i hr
      split at h
      · rename_i ht
        obtain ⟨u, hu, rfl⟩ := afterNext_eq_next h
        exact .inr (.inl ⟨by simpa using hr, ht, u, hu, rfl⟩)
      · rename_i ht
        exact .inr (.inr ⟨by simpa using hr, by simpa using ht, by simpa using h.symm⟩)

/-- The state `withFetchWord` makes keeps the hold at its next edge, takes a response there, and has the word at Q's
head. -/
theorem State.withFetchWord_fetches (s : State) (nbits w : Nat) :
    (s.withFetchWord nbits w).holdBroken (s.withFetchWord nbits w).nextEdge = false ∧
    (s.withFetchWord nbits w).takesResponse (s.withFetchWord nbits w).nextEdge = true ∧
    ∃ f, (s.withFetchWord nbits w).queue = f :: s.queue.tail ∧ f.word = BitVec.ofNat 32 (w % 2 ^ nbits) := by
  refine ⟨?_, ?_, ⟨_, rfl, rfl⟩⟩
  · cases h : s.pending <;> simp [State.withFetchWord, State.nextEdge, State.holdBroken, State.idleEdge, h]
  · simp [State.withFetchWord, State.nextEdge, State.takesResponse, State.rspValidOut, State.idleEdge]

end Sys2Proof.Machine
end

