-- ==== Sys2Proof/Tests/Slice0.lean ====
section
/-! SUPPORT. The model's own tests: the well-formedness checks, words written out from the spec's encodings, one step per
operation against the vectors of 95_test_vectors.md, and a witness for the hypotheses of every statement. -/

namespace Sys2Proof.Tests

open Sys2Proof Sys2Proof.Machine

/-! ## Well-formedness refuses each ill-formed width (R63) -/

theorem test_wf_psm_low : (Instr.psm 1 0#8 0#8 0#8).wf = false := by decide
theorem test_wf_psm_high : (Instr.psm 8 0#8 0#8 0#8).wf = false := by decide
theorem test_wf_psms_low : (Instr.psms 1 0#8 0#8 0#8).wf = false := by decide
theorem test_wf_psms_high : (Instr.psms 8 0#8 0#8 0#8).wf = false := by decide
theorem test_wf_pn2_low : (Instr.pn2 1 0#8 0#8).wf = false := by decide
theorem test_wf_pn2_high : (Instr.pn2 8 0#8 0#8).wf = false := by decide
theorem test_wf_pn2s_low : (Instr.pn2s 1 0#8 0#8).wf = false := by decide
theorem test_wf_pn2s_high : (Instr.pn2s 8 0#8 0#8).wf = false := by decide
theorem test_wf_bounds : (Instr.psm 2 0#8 0#8 0#8).wf = true ∧ (Instr.pn2s 7 0#8 0#8).wf = true := by decide

/-! ## Words written out bit by bit: cccccccc bbbbbbbb aaaaaaaa 0nnn oooo (R60, R62) -/

theorem test_decode_brev : decode 0b00000000_00000000_00101101_0000_0000#32 = .legal (.brev 0x2D#8) := by decide
theorem test_decode_zzdec : decode 0b00000000_00000000_00010001_0000_0001#32 = .legal (.zzdec 0x11#8) := by decide
theorem test_decode_pn1 : decode 0b00000000_11010101_00000011_0000_0010#32 = .legal (.pn1 0x03#8 0xD5#8) := by decide
theorem test_decode_psm :
    decode 0b00000101_00110100_00010010_0011_0011#32 = .legal (.psm 3 0x12#8 0x34#8 0x05#8) := by decide
theorem test_decode_psms :
    decode 0b11111001_00110100_00010010_0100_0100#32 = .legal (.psms 4 0x12#8 0x34#8 0xF9#8) := by decide
theorem test_decode_pn2 : decode 0b00000000_00011111_10000000_0101_0101#32 = .legal (.pn2 5 0x80#8 0x1F#8) := by decide
theorem test_decode_pn2s : decode 0b00000000_11111110_00000000_0010_0110#32 = .legal (.pn2s 2 0x00#8 0xFE#8) := by decide
theorem test_decode_tiny : decode 0b11111111_11111111_10000011_0000_0111#32 = .legal (.tiny 0x83#8) := by decide

/-- The example of R73: `PSM.3 0x12, 0x34, 0x05` assembles to 0x05341233. -/
theorem test_encode_psm : encode (.psm 3 0x12#8 0x34#8 0x05#8) = 0x05341233#32 := by decide

/-! V-DEC-3, V-DEC-6, V-DEC-8, V-DEC-10 and V-DEC-12: causes and their priority. -/

theorem test_decode_cause1_first : decode 0x0000008B#32 = .illegal .reservedOp := by decide
theorem test_decode_cause2_before_3 : decode 0x00000083#32 = .illegal .reservedBit := by decide
theorem test_decode_nsel_1 : decode 0x07000013#32 = .illegal .badN := by decide
theorem test_decode_pn1_with_n : decode 0x00800022#32 = .illegal .badN := by decide
theorem test_decode_zzdec_with_n : decode 0x00000071#32 = .illegal .badN := by decide

/-- Byte 0 is the command byte (R41). -/
theorem test_lanes : lanesOfWord 0x05341233#32 = [0x33#8, 0x12#8, 0x34#8, 0x05#8] := by decide

theorem test_partial_transfer : decodeLanes [0x33#8, 0x12#8, 0x34#8] = .partialTransfer := by decide

/-! ## One step per operation: the response taken at the first step after reset (95_test_vectors.md) -/

/-- The responses after the step that serves a word put at Q's head after reset. -/
def answer (w : Nat) : Option (List RspWord) :=
  match step (State.reset.withFetchWord 32 w) with
  | .next t => some t.taken
  | .fault _ => none
  | .refused _ => none

/-- R115's example. -/
theorem test_brev : answer 0x00002D00 = some [0x00B4#16] := by decide
/-- V-DEC-15. -/
theorem test_brev_ignores_b_c : answer 0xFFFFFF00 = some [0x00FF#16] := by decide
/-- R116's example. -/
theorem test_zzdec : answer 0x00001101 = some [0x00F7#16] := by decide
/-- P1, request 4. -/
theorem test_zzdec_smallest : answer 0x0000FF01 = some [0x0080#16] := by decide
/-- V-PN1-1, the source's example. -/
theorem test_pn1 : answer 0x00800002 = some [0x0001#16] := by decide
/-- V-PN1-12: 127 + 1 wraps. -/
theorem test_pn1_wraps : answer 0x00D50302 = some [0x0080#16] := by decide
/-- V-PSM-5. -/
theorem test_psm : answer 0x07000033 = some [0x0004#16] := by decide
/-- V-PSM-20: -128 - 63 wraps. -/
theorem test_psm_wraps : answer 0x007F0173 = some [0x0041#16] := by decide
/-- V-PSM-23: c masked to 0x09. -/
theorem test_psms : answer 0xF9341244 = some [0x00F7#16] := by decide
/-- V-PSM-26: c masked to 0x00. -/
theorem test_psms_masks_to_zero : answer 0x08800034 = some [0x00FD#16] := by decide
/-- V-PN2-14. -/
theorem test_pn2 : answer 0x000F8045 = some [0x0024#16] := by decide
/-- V-PN2-33. -/
theorem test_pn2_odd : answer 0x0021C065 = some [0x001A#16] := by decide
/-- V-PN2-36: b masked to 0x02. -/
theorem test_pn2s : answer 0x00FE0026 = some [0x00FD#16] := by decide
/-- V-PN2-38: b masked to 0x05. -/
theorem test_pn2s_masks : answer 0x00250156 = some [0x00FC#16] := by decide
/-- V-TINY-1, the source's example. -/
theorem test_tiny : answer 0x00000007 = some [0x00FF#16] := by decide
/-- V-TINY-10. -/
theorem test_tiny_largest : answer 0x00008307 = some [0x000A#16] := by decide
/-- V-DEC-1: cause 1. -/
theorem test_illegal_op : answer 0x00000008 = some [0x0300#16] := by decide
/-- V-DEC-4: cause 2. -/
theorem test_illegal_rsv : answer 0x00002D80 = some [0x0500#16] := by decide
/-- V-DEC-9: cause 3. -/
theorem test_illegal_n : answer 0x00000016 = some [0x0700#16] := by decide

/-- V-PSM-OOR-1, V-PSM-OOR-2, V-PN2-OOR-2 under WRAP. -/
theorem test_out_of_range_wrap :
    resp .wrap 0#8 0xFF000023#32 = 0x00FE#16 ∧ resp .wrap 0#8 0x10341233#32 = 0x0002#16 ∧
    resp .wrap 0#8 0x00108045#32 = 0x00DB#16 := by decide

/-- Under ANY the answer is the draw (R142). -/
theorem test_out_of_range_any (x : U8) : resp .any x 0xFF000023#32 = rspLegal x := rfl

/-- R101's table is R100's reversal: BREV8(0x2D) = 0xB4 through nibbles. -/
theorem test_nibbles : brev8ByNibbles 0x2D#8 = 0xB4#8 := by decide

/-! ## The edge -/

/-- An edge with a request and everyone ready. -/
def offer (w : ReqWord) : Edge := ⟨false, true, w, true, true, true⟩

/-- An edge at which the host only takes. -/
def take : Edge := ⟨false, false, 0#32, true, true, true⟩

/-- An edge under reset. -/
def resetPulse : Edge := ⟨true, false, 0#32, true, true, true⟩

/-- A run in its middle: BREV 0x2D answered, TINY 0x83 in Q with its response valid. -/
def midRun (es : List Edge) : State :=
  { State.reset with
    queue := [⟨0x00008307#32, Config.lat⟩], rspValid := true, schedule := es,
    accepted := [0x00002D00#32, 0x00008307#32], taken := [0x00B4#16] }

/-- P4: a reset edge discards what is in Q and delivers nothing (R230). -/
theorem test_reset_discards :
    (match step (midRun [resetPulse]) with
      | .next t => t.queue = [] ∧ t.taken = [] ∧ t.past = [0x00B4#16]
      | .fault _ => False
      | .refused _ => False) := ⟨rfl, rfl, rfl⟩

/-- A response is taken and a request waits at the same edge (R31, R32). -/
theorem test_take :
    (match step (midRun [take]) with
      | .next t => t.queue = [] ∧ t.taken = [0x00B4#16, 0x000A#16] ∧ t.rspValid = false
      | .fault _ => False
      | .refused _ => False) := ⟨rfl, rfl, rfl⟩

/-- A request presented to a unit that is not ready must be held (R31). -/
theorem test_unaccepted_request_is_pending :
    (match step { State.reset with schedule := [⟨false, true, 0x00002D00#32, true, false, true⟩] } with
      | .next t => t.pending = some 0x00002D00#32 ∧ t.queue = []
      | .fault _ => False
      | .refused _ => False) := ⟨rfl, rfl⟩

/-- A dropped request faults the run (R234). -/
theorem test_dropped_request :
    step { State.reset with pending := some 0x00002D00#32, schedule := [take] } = .fault .requestNotHeld := rfl

/-- Right after reset, with nothing offered, an edge delivers nothing. -/
theorem test_idle_reset :
    (match step State.reset with
      | .next t => t.queue = [] ∧ t.taken = []
      | .fault _ => False
      | .refused _ => False) := ⟨rfl, rfl⟩

/-! ## The assembler (R73 to R75) -/

theorem test_assemble : assembleLine "PSM.3 0x12, 0x34, 0x05".toList = .ok 0x05341233#32 := by decide
theorem test_assemble_signed : assembleLine "to_paranormal -128, 255".toList = .ok 0x00FF8002#32 := by decide
/-- Log entry 17: leading zeros, and -0. -/
theorem test_assemble_digits : assembleLine "PSM.03 0x0012, 0x34, -0".toList = .ok 0x00341233#32 := by decide
theorem test_assemble_word : assembleLine ".word 0x07000013".toList = .ok 0x07000013#32 := by decide
theorem test_assemble_bad_n : assembleLine "PSM.1 0, 0, 0".toList = .error .badWidth := by decide
theorem test_assemble_n_not_wanted : assembleLine "BREV.2 3".toList = .error .badWidth := by decide
theorem test_assemble_missing : assembleLine "PN1 3".toList = .error .operandCount := by decide
theorem test_assemble_range : assembleLine "TINY 256".toList = .error .operandRange := by decide
theorem test_assemble_unsafe : assembleLine "PN2.4 0x80, 0x10".toList = .error .useSafeForm := by decide
theorem test_assemble_unknown : assembleLine "NOP 1".toList = .error .unknownName := by decide

/-! ## Witnesses: states and operands that meet the hypotheses of each statement -/

theorem witness_DecodeOfEncodeIsTheOperation : (Instr.psm 7 0xFF#8 0xFF#8 0xFF#8).wf = true := by decide

theorem witness_LegalWordIsItsOperationsEncoding :
    decode 0xFFFFFF07#32 = .legal (.tiny 0xFF#8) := by decide

/-- One word for each clause, at the boundary values of OP and NSEL. -/
theorem witness_FirstFailingCheckGivesTheCause :
    (8 ≤ (opField 0x00000008#32).toNat) ∧
    ((opField 0x00000087#32).toNat < 8 ∧ rsvField 0x00000087#32 = true) ∧
    (rsvField 0x00000013#32 = false ∧ 3 ≤ (opField 0x00000013#32).toNat ∧ (nselField 0x00000013#32).toNat < 2) ∧
    (rsvField 0x00000026#32 = false ∧ (opField 0x00000026#32).toNat ≤ 6 ∧ 2 ≤ (nselField 0x00000026#32).toNat) ∧
    ((opField 0x00000012#32).toNat < 8 ∧ rsvField 0x00000012#32 = false ∧ ¬ 3 ≤ (opField 0x00000012#32).toNat ∧ (nselField 0x00000012#32).toNat ≠ 0) ∧
    ((opField 0x00000007#32).toNat < 8 ∧ rsvField 0x00000007#32 = false ∧ ¬ (opField 0x00000007#32).toNat ≤ 6 ∧ (nselField 0x00000007#32).toNat = 0) := by
  decide

theorem witness_IgnoredFieldsHaveNoEffect :
    (decode 0x00002D00#32 = .legal (.brev 0x2D#8) ∧
      0x00002D00#32 &&& usedBits (.brev 0x2D#8) = 0xABCD2D00#32 &&& usedBits (.brev 0x2D#8)) ∧
    (0x07000013#32 : ReqWord).extractLsb' 0 8 = (0xFFFFFF13#32 : ReqWord).extractLsb' 0 8 ∧
      decode 0x07000013#32 = .illegal .badN := by decide

/-- For SmoothingConstants, PsmAnswersInRange, PsmsAnswers, PsmsIsPsmOfMaskedOperand, Pn2ClosedForm, Pn2MagnitudeBound,
Pn2sAnswers, Pn2sIsPn2OfMaskedOperand and SignBiasIsPn1Only: the narrowest and the widest N, with a smoothing operand at the top
of its range. -/
theorem witness_in_range :
    (2 ≤ 2 ∧ 2 ≤ 7 ∧ (0x03#8 : U8).toNat ≤ 2 ^ 2 - 1) ∧ (2 ≤ 7 ∧ 7 ≤ 7 ∧ (0x7F#8 : U8).toNat ≤ 2 ^ 7 - 1) := by decide

/-- For PsmAnswersOutOfRange and Pn2AnswersOutOfRange: the narrowest and the widest N with the first smoothing operand out of
range and the last. -/
theorem witness_out_of_range :
    (2 ≤ 2 ∧ 2 ≤ 7 ∧ 2 ^ 2 - 1 < (0x04#8 : U8).toNat) ∧ (2 ≤ 7 ∧ 7 ≤ 7 ∧ 2 ^ 7 - 1 < (0xFF#8 : U8).toNat) := by decide

/-- For LittleEndianLanes, NibbleTableReverses and BrevAnswersReversedBits: the last index of each range. -/
theorem witness_index_bounds : 3 < 4 ∧ 7 < 8 ∧ 1 < 2 := by decide

theorem witness_ZzdecClosedForm : (0xFE#8 : U8).toNat % 2 = 0 ∧ (0xFF#8 : U8).toNat % 2 = 1 := by decide

/-- ZZDEC: the operand itself meets the uniqueness hypothesis. -/
theorem witness_ZzdecIsABijection : exec (.zzdec 0xFF#8) State.reset = exec (.zzdec 0xFF#8) State.reset := rfl

theorem witness_SignBiasIsPn1Only : (0x7F#8 : U8).getLsbD 7 = false := by decide

theorem witness_Pn2ClosedForm :
    (65 - 1 : Int) = s8 (zz8 (pshift 0x80#8)) + ((bias2 7).toNat : Int) + (((0x7F#8 : U8).toNat / 2 : Nat) : Int)
      - 2 ^ (7 - 2) := by decide

theorem witness_Pn2sAnswers :
    (65 - 1 : Int) = s8 (zz8 (pshift 0x80#8)) + ((bias2 7).toNat : Int)
      + (((0xFF#8 : U8).toNat % 2 ^ 7 / 2 : Nat) : Int) - 2 ^ (7 - 2) := by decide

theorem witness_TinyClosedForm :
    (9 : Int) = s8 (zz8 (pshift (0x83#8 >>> 2))) + (((0x83#8 : U8).getLsbD 1).toNat : Int) := by decide

/-- For the statements about a served head: a legal head, its hold kept and its response taken. -/
theorem witness_StepRunsTheDecodedHead :
    (midRun [take]).queue = ⟨0x00008307#32, Config.lat⟩ :: [] ∧ decode 0x00008307#32 = .legal (.tiny 0x83#8) ∧
    (midRun [take]).holdBroken (midRun [take]).nextEdge = false ∧
    (midRun [take]).takesResponse (midRun [take]).nextEdge = true := ⟨rfl, by decide, rfl, rfl⟩

/-- For the illegal head. -/
theorem witness_StepReportsAnIllegalHead :
    (State.reset.withFetchWord 32 0x0000008B).queue = ⟨0x0000008B#32, 0 + Config.lat⟩ :: [] ∧
    decode 0x0000008B#32 = .illegal .reservedOp ∧
    (State.reset.withFetchWord 32 0x0000008B).holdBroken (State.reset.withFetchWord 32 0x0000008B).nextEdge = false ∧
    (State.reset.withFetchWord 32 0x0000008B).takesResponse (State.reset.withFetchWord 32 0x0000008B).nextEdge = true :=
  ⟨rfl, by decide, rfl, rfl⟩

theorem witness_ServedHeadAnswersResp : (midRun []).queue = ⟨0x00008307#32, Config.lat⟩ :: [] := rfl

/-- A response taken and a request accepted at one edge need DEPTH at least 2; at DEPTH 1 the request waits. -/
theorem witness_HandshakesMoveWholeWords :
    (midRun [offer 0x00000102#32]).nextEdge = offer 0x00000102#32 ∧
    (midRun [offer 0x00000102#32]).holdBroken (offer 0x00000102#32) = false ∧ (offer 0x00000102#32).rst = false ∧
    (midRun [offer 0x00000102#32]).takesResponse (offer 0x00000102#32) = true := ⟨rfl, rfl, rfl, rfl⟩

/-- A request accepted after reset, whatever DEPTH is. -/
theorem witness_acceptance :
    ({ State.reset with schedule := [offer 0x00000102#32] } : State).acceptsRequest (offer 0x00000102#32) = true := by
  rw [State.acceptsRequest_iff, State.reqReady_iff]
  exact ⟨rfl, rfl, rfl, depth_pos⟩

theorem witness_ResponseIsStableUntilTaken :
    (midRun []).holdBroken (midRun []).nextEdge = false ∧ (midRun []).rspValidOut (midRun []).nextEdge = true ∧
    (midRun []).takesResponse (midRun []).nextEdge = false ∧ take.rst = false := ⟨rfl, rfl, rfl, rfl⟩

theorem witness_ResetDiscardsRequestsInFlight :
    (midRun [resetPulse]).nextEdge = resetPulse ∧ resetPulse.rst = true ∧
    (midRun [resetPulse]).holdBroken resetPulse = false := ⟨rfl, rfl, rfl⟩

/-- A full Q, with a host that offers a request and takes nothing, runs on. -/
theorem witness_FullQueueStallsForGood :
    ∃ s t : State, s.queue.length = Config.depth ∧ (∀ e ∈ s.schedule, e.rst = false ∧ e.rspReady = false) ∧
      Host.Core.run Sys2Proof.core 1 s = .next t :=
  ⟨{ State.reset with
      queue := List.replicate Config.depth ⟨0x00002D00#32, 1⟩
      schedule := [⟨false, true, 0x00000102#32, false, true, false⟩] },
    _, List.length_replicate, fun e he => by simp only [List.mem_singleton] at he; subst he; exact ⟨rfl, rfl⟩, rfl⟩

/-- Dropped, and changed. -/
theorem witness_BrokenHoldFaults :
    ({ State.reset with pending := some 0x00002D00#32, schedule := [take] } : State).nextEdge.reqValid = false ∧
    ({ State.reset with pending := some 0x00002D00#32, schedule := [offer 0#32] } : State).nextEdge.reqWord
      ≠ 0x00002D00#32 := by decide

/-- A held request breaks nothing. -/
theorem witness_hold_kept :
    ({ State.reset with pending := some 0x00002D00#32, schedule := [offer 0x00002D00#32] } : State).holdBroken
      (offer 0x00002D00#32) = false := by decide

/-- The invariants hold in the middle of a run, from which the machine steps on. -/
theorem witness_invariants (es : List Edge) :
    (midRun es).QueueInv ∧ (midRun es).OrderInv ∧ (midRun es).FormatInv ∧ ∃ t, step (midRun [take]) = .next t := by
  refine ⟨⟨by simpa [midRun] using depth_pos, fun _ => ⟨_, rfl, Nat.le_refl _⟩, by simp [midRun], ?_⟩, ⟨rfl, ?_⟩, ?_, ⟨_, rfl⟩⟩
  · simpa [midRun] using lat_pos
  · exact .cons ⟨0#8, rfl⟩ .nil
  · intro r hr
    simp only [midRun, List.mem_singleton] at hr
    subst hr
    decide

/-- A run of one step from the middle of a run; none of its accepted words is out of range. -/
theorem witness_ResponsesAreTheSameForEverySchedule :
    (midRun [take]).OrderInv ∧ ∃ t, Host.Core.run Sys2Proof.core 1 (midRun [take]) = .next t ∧
      t.accepted = [0x00002D00#32, 0x00008307#32] ∧ ∀ w ∈ t.accepted, oorWord w = false := by
  have h1 : oorWord 0x00002D00#32 = false := by decide
  have h2 : oorWord 0x00008307#32 = false := by decide
  refine ⟨(witness_invariants [take]).2.1, _, rfl, rfl, fun w hw => ?_⟩
  rcases List.mem_pair.1 hw with rfl | rfl
  · exact h1
  · exact h2

/-- Two different states with the same word at their heads. -/
theorem witness_ResponseDependsOnItsWordAlone :
    (midRun [take]).queue = ⟨0x00008307#32, Config.lat⟩ :: [] ∧
    (State.reset.withFetchWord 32 0x00008307).queue = ⟨0x00008307#32, 0 + Config.lat⟩ :: [] ∧
    oorWord 0x00008307#32 = false ∧
    (midRun [take]).holdBroken (midRun [take]).nextEdge = false ∧
    (State.reset.withFetchWord 32 0x00008307).holdBroken (State.reset.withFetchWord 32 0x00008307).nextEdge = false ∧
    (midRun [take]).takesResponse (midRun [take]).nextEdge = true ∧
    (State.reset.withFetchWord 32 0x00008307).takesResponse (State.reset.withFetchWord 32 0x00008307).nextEdge = true :=
  ⟨rfl, rfl, by decide, rfl, rfl, rfl, rfl⟩

/-- The last edge of a run of two requests ends it. -/
theorem witness_EndedRunLeavesQueueEmpty :
    (midRun [take]).OrderInv ∧ ∃ t, Host.Core.run Sys2Proof.core 1 (midRun [take]) = .next t ∧
      t.runEnded [0x00002D00#32, 0x00008307#32] :=
  ⟨(witness_invariants [take]).2.1, _, rfl, rfl, rfl⟩

theorem witness_RequestIsAnsweredAfterLat : 0 ≤ Config.lat ∧ 1 ≤ Config.lat := ⟨Nat.zero_le _, lat_pos⟩

/-- A line that assembles; a smoothing literal just out of range, unsigned and signed; a literal beyond 32 bits. -/
theorem witness_AssembledLinesAreLegal :
    assemble (.request .psm (some 3) [0x12, 0x34, 0x05]) = .ok 0x05341233#32 ∧
    (2 ^ 3 - 1 < (u8 8).toNat ∧ 2 ^ 7 - 1 < (u8 (-128)).toNat) ∧ 2 ^ 32 ≤ 0x100000000 := by decide

/-- The ends of the literal range, and a smoothing literal at the top of its range. -/
theorem witness_AssemblyForms :
    ((-128 : Int) ≤ -128 ∧ (255 : Int) ≤ 255) ∧ (u8 3).toNat ≤ 2 ^ 2 - 1 ∧ (u8 127).toNat ≤ 2 ^ 7 - 1 := by decide

end Sys2Proof.Tests
end

section
/-! PROOFS. 20_memory.md: every step keeps the response order (R45), and a response depends on its request word alone
(R46). Both rest on one fact, `serveHead_answers_resp`: serving Q's head delivers RESP of its word
(30_encoding.md R67). -/

namespace Sys2Proof.Machine

/-! ## RESP by the decoded word

`decode` and `exec` go through an operation, `resp` reads the bits. The response of a decoded word stands between
them. -/

/-- The RESULT byte an operation answers, `free` being the draw it would use. -/
def answerByte (o : OorResult) (free : U8) : Instr → U8
  | .brev a => brev8 a
  | .zzdec a => zz8 a
  | .pn1 a b => pn1F a b
  | .psm n a b c => psmByte o free n a b c
  | .psms n a b c => psmF n a b (mask n c)
  | .pn2 n a b => pn2Byte o free n a b
  | .pn2s n a b => pn2F n a (mask n b)
  | .tiny a => tinyF a

/-- The operations whose answer `OOR_RESULT` decides (R12). -/
def answerOutOfRange : Instr → Bool
  | .brev _ => false
  | .zzdec _ => false
  | .pn1 _ _ => false
  | .psm n _ _ c => !inRange n c
  | .psms _ _ _ _ => false
  | .pn2 n _ b => !inRange n b
  | .pn2s _ _ _ => false
  | .tiny _ => false

/-- The response word to a decoded request word (R11, R201). -/
def verdictRsp (o : OorResult) (free : U8) : Verdict → RspWord
  | .legal i => rspLegal (answerByte o free i)
  | .illegal c => rspIllegal c

theorem verdictRsp_withWidth (o : OorResult) (free : U8) (w : ReqWord) (mk : Nat → Instr) :
    verdictRsp o free (withWidth w mk) =
      if (nselField w).toNat < 2 then rspIllegal .badN else rspLegal (answerByte o free (mk (nselField w).toNat)) := by
  unfold withWidth
  split <;> rfl

theorem verdictRsp_withoutWidth (o : OorResult) (free : U8) (w : ReqWord) (i : Instr) :
    verdictRsp o free (withoutWidth w i) =
      if (nselField w).toNat ≠ 0 then rspIllegal .badN else rspLegal (answerByte o free i) := by
  unfold withoutWidth
  split <;> rfl

/-- R67's pseudocode on the bits agrees with the decoder: the same checks in the same order, then one case per OP. -/
theorem resp_eq_verdictRsp (o : OorResult) (free : U8) (w : ReqWord) :
    resp o free w = verdictRsp o free (decode w) := by
  unfold resp decode
  by_cases hop : 8 ≤ (opField w).toNat
  · simp [hop, verdictRsp]
  by_cases hrsv : rsvField w = true
  · simp [hop, hrsv, verdictRsp]
  have hlt : (opField w).toNat < 8 := by omega
  simp only [hop, hrsv, if_false, decodeOp]
  generalize (opField w).toNat = op at hlt
  interval_cases op <;>
    simp [verdictRsp_withWidth, verdictRsp_withoutWidth, respOp, answerByte]

theorem oorWord_of_legal {w : ReqWord} {i : Instr} (hd : decode w = .legal i) : oorWord w = answerOutOfRange i := by
  cases i <;> simp [oorWord, hd, answerOutOfRange]

theorem oorWord_of_illegal {w : ReqWord} {c : Cause} (hd : decode w = .illegal c) : oorWord w = false := by
  simp [oorWord, hd]

/-- In range neither `OOR_RESULT` nor the draw shows in the answer. -/
theorem answerByte_eq_of_inRange {i : Instr} (h : answerOutOfRange i = false) (o o' : OorResult) (free free' : U8) :
    answerByte o free i = answerByte o' free' i := by
  cases i with
  | psm n a b c =>
    have hin : inRange n c = true := by simpa [answerOutOfRange] using h
    simp [answerByte, psmByte, hin]
  | pn2 n a b =>
    have hin : inRange n b = true := by simpa [answerOutOfRange] using h
    simp [answerByte, pn2Byte, hin]
  | _ => rfl

/-- `RESP(w)` depends on `w` alone unless `OOR_RESULT` decides it (R46, R12). -/
theorem resp_eq_of_not_oorWord {w : ReqWord} (h : oorWord w = false) (o o' : OorResult) (free free' : U8) :
    resp o free w = resp o' free' w := by
  rw [resp_eq_verdictRsp, resp_eq_verdictRsp]
  cases hd : decode w with
  | illegal c => rfl
  | legal i => exact congrArg rspLegal (answerByte_eq_of_inRange (oorWord_of_legal hd ▸ h) o o' free free')

/-! ## Serving Q's head -/

/-- An operation delivers its answer byte and uses up a draw exactly where `OOR_RESULT` decides. -/
theorem exec_answers (i : Instr) (s : State) :
    exec i s = .next ((if answerOutOfRange i then s.drawn else s).deliver
      (rspLegal (answerByte Config.oorResult (Config.freeByte s.draws) i))) := by
  cases i with
  | psm n a b c =>
    cases h : inRange n c <;>
      simp [exec, execPsm, answerOutOfRange, answerByte, psmByte, h, respond_next, respondOutOfRange_next]
  | pn2 n a b =>
    cases h : inRange n b <;>
      simp [exec, execPn2, answerOutOfRange, answerByte, pn2Byte, h, respond_next, respondOutOfRange_next]
  | _ => rfl

/-- Serving Q's head delivers RESP of its word, legal or not (R67). -/
theorem serveHead_answers_resp {s : State} {f : Flight} {rest : List Flight} (h : s.queue = f :: rest) :
    serveHead s = .next ((if oorWord f.word then s.drawn else s).deliver
      (resp Config.oorResult (Config.freeByte s.draws) f.word)) := by
  rw [resp_eq_verdictRsp]
  cases hd : decode f.word with
  | illegal c => simp [serveHead, h, hd, oorWord_of_illegal hd, verdictRsp, raiseIllegal_next]
  | legal i => simp [serveHead, h, hd, oorWord_of_legal hd, verdictRsp, exec_answers]

/-- A response is taken at no edge under reset (R230). -/
theorem State.rst_of_takesResponse {s : State} {e : Edge} (htake : s.takesResponse e = true) : e.rst = false :=
  ((s.rspValidOut_iff e).1 ((s.takesResponse_iff e).1 htake).2).1

theorem State.queue_ne_nil_of_takesResponse {s : State} {e : Edge} (htake : s.takesResponse e = true) :
    s.queue ≠ [] :=
  ((s.rspValidOut_iff e).1 ((s.takesResponse_iff e).1 htake).2).2.2

/-- The step at which a response is taken serves Q's head and finishes the edge. -/
theorem step_of_takesResponse {s : State} (hhold : s.holdBroken s.nextEdge = false)
    (htake : s.takesResponse s.nextEdge = true) :
    step s = afterNext (s.finishEdge s.nextEdge) (serveHead s) := by
  simp [step, clockEdge, hhold, htake, State.rst_of_takesResponse htake]

/-- The step at which the response of Q's head is taken hands the host RESP of its word. -/
theorem step_takes_resp {s : State} {f : Flight} {rest : List Flight} (hq : s.queue = f :: rest)
    (hhold : s.holdBroken s.nextEdge = false) (htake : s.takesResponse s.nextEdge = true) :
    ∃ t, step s = .next t ∧ t.taken = s.taken ++ [resp Config.oorResult (Config.freeByte s.draws) f.word] := by
  rw [step_of_takesResponse hhold htake, serveHead_answers_resp hq]
  refine ⟨_, afterNext_next _ _, ?_⟩
  cases oorWord f.word <;> rfl

/-! ## The response order -/

/-- The response order in one equation: the accepted words split into those answered and those in Q. -/
theorem State.orderInv_iff (s : State) :
    s.OrderInv ↔ ∃ answered, s.accepted = answered ++ s.words ∧ List.Forall₂ Admissible answered s.taken := by
  constructor
  · intro ⟨hflight, hans⟩
    exact ⟨_, by rw [← hflight, List.take_append_drop], hans⟩
  · intro ⟨answered, hacc, hans⟩
    constructor
    · rw [hacc, ← hans.length_eq, List.drop_left]
    · rw [hacc, ← hans.length_eq, List.take_left]
      exact hans

theorem State.OrderInv.drawn {s : State} (h : s.OrderInv) : s.drawn.OrderInv := ⟨h.inFlight, h.answered⟩

/-- Delivering an admissible response to Q's head moves its word from Q to the answered ones. -/
theorem State.OrderInv.deliver {s : State} {f : Flight} {rest : List Flight} {r : RspWord} (h : s.OrderInv)
    (hq : s.queue = f :: rest) (hr : Admissible f.word r) : (s.deliver r).OrderInv := by
  obtain ⟨answered, hacc, hans⟩ := s.orderInv_iff.1 h
  exact (State.orderInv_iff _).2 ⟨answered ++ [f.word], by simp [hacc, State.words, hq],
    List.rel_append hans (.cons hr .nil)⟩

/-- The end of an edge appends the accepted word to Q and to the record alike. -/
theorem State.OrderInv.finishEdge {t : State} (h : t.OrderInv) (s : State) (e : Edge) :
    (s.finishEdge e t).OrderInv := by
  obtain ⟨answered, hacc, hans⟩ := t.orderInv_iff.1 h
  exact (State.orderInv_iff _).2 ⟨answered, by simp [hacc, State.words], hans⟩

theorem State.orderInv_resetEdge (s : State) (e : Edge) : (s.resetEdge e).OrderInv := ⟨rfl, .nil⟩

theorem State.OrderInv.serveHead {s u : State} (h : s.OrderInv) (hne : s.queue ≠ [])
    (hu : serveHead s = .next u) : u.OrderInv := by
  obtain ⟨f, rest, hq⟩ := List.exists_cons_of_ne_nil hne
  rw [serveHead_answers_resp hq] at hu
  cases hu
  cases oorWord f.word with
  | false => exact h.deliver hq ⟨_, rfl⟩
  | true => exact h.drawn.deliver hq ⟨_, rfl⟩

/-- Settles O41: a reset edge empties both records, serving Q's head answers its oldest word with RESP of it, and the
rest of an edge appends the accepted word at both ends. -/
theorem stepKeepsResponseOrder : Obligations.StepKeepsResponseOrder := by
  intro s t h hstep
  obtain ⟨-, ⟨-, rfl⟩ | ⟨-, htake, u, hu, rfl⟩ | ⟨-, -, rfl⟩⟩ := step_cases hstep
  · exact s.orderInv_resetEdge _
  · exact (h.serveHead (State.queue_ne_nil_of_takesResponse htake) hu).finishEdge s _
  · exact h.finishEdge s _

/-- Settles O45: both steps deliver RESP of the one word, in which an in-range word shows no draw. -/
theorem responseDependsOnItsWordAlone : Obligations.ResponseDependsOnItsWordAlone := by
  intro s s' f f' rest rest' hq hq' hword hoor hhold hhold' htake htake'
  obtain ⟨t, hstep, htaken⟩ := step_takes_resp hq hhold htake
  obtain ⟨t', hstep', htaken'⟩ := step_takes_resp hq' hhold' htake'
  refine ⟨_, t, t', hstep, hstep', htaken, ?_⟩
  rw [htaken', ← hword, resp_eq_of_not_oorWord hoor]

end Sys2Proof.Machine
end

section
/-! PROOFS. 30_encoding.md: every step keeps the form of the response words (R61), and the assembler's aliases (R74). -/

namespace Sys2Proof.Machine

/-! ## The response words -/

theorem State.FormatInv.deliver {s : State} {r : RspWord} (h : s.FormatInv) (hr : rspWellFormed r = true) :
    (s.deliver r).FormatInv := by
  intro x hx
  rcases List.mem_append.1 hx with hold | hnew
  · exact h x hold
  · exact List.mem_singleton.1 hnew ▸ hr

theorem State.FormatInv.drawn {s : State} (h : s.FormatInv) : s.drawn.FormatInv := h

theorem State.FormatInv.serveHead {s u : State} (h : s.FormatInv) (hne : s.queue ≠ [])
    (hu : serveHead s = .next u) : u.FormatInv := by
  obtain ⟨f, rest, hq⟩ := List.exists_cons_of_ne_nil hne
  obtain ⟨r, hr, hs | hs⟩ := serveHead_cases hq
  · cases hs.symm.trans hu
    exact h.deliver hr
  · cases hs.symm.trans hu
    exact h.drawn.deliver hr

/-- The end of an edge takes no response. -/
theorem State.FormatInv.finishEdge {t : State} (h : t.FormatInv) (s : State) (e : Edge) :
    (s.finishEdge e t).FormatInv := h

theorem State.formatInv_resetEdge (s : State) (e : Edge) : (s.resetEdge e).FormatInv := List.forall_mem_nil _

/-- Settles O42: a reset edge empties the record, serving Q's head appends one word of a form of R61, and the rest of an
edge leaves the record as it is. -/
theorem stepKeepsResponseFormat : Obligations.StepKeepsResponseFormat := by
  intro s t h hstep
  obtain ⟨-, ⟨-, rfl⟩ | ⟨-, htake, u, hu, rfl⟩ | ⟨-, -, rfl⟩⟩ := step_cases hstep
  · exact s.formatInv_resetEdge _
  · exact (h.serveHead (State.queue_ne_nil_of_takesResponse htake) hu).finishEdge s _
  · exact h.finishEdge s _

/-! ## The assembler's names -/

/-- No name is listed twice (R73, R74). -/
theorem asmNames_nodup : (asmNames.map Prod.fst).Nodup := by decide

/-- Settles O50: the lookup, run on each of the listed names, finds the alias and its mnemonic under one operation. -/
theorem aliasesNameTheirMnemonics : Obligations.AliasesNameTheirMnemonics :=
  ⟨rfl, rfl, rfl, rfl, rfl, rfl, rfl, rfl, rfl, rfl, rfl, rfl, asmNames_nodup⟩

end Sys2Proof.Machine
end

section
/-! PROOFS. 40_primitives.md: BREV reverses the bits and undoes itself (R100, R117), ZZDEC is a bijection (R118). The
laws of `brev8`, `zz8` and `zzEnc8` are read off their bits. -/

namespace Sys2Proof.Machine

/-! ## The bits of the sub-units -/

/-- R100's equation. -/
theorem brev8_getLsbD (x : U8) {i : Nat} (hi : i < 8) : (brev8 x).getLsbD i = x.getLsbD (7 - i) := by
  rw [brev8, BitVec.getLsbD_ofBoolListLE]
  interval_cases i <;> rfl

/-- The XOR mask of R102 is the operand's bit 0 in every place. -/
theorem sub8_zero_lowBit_getLsbD (x : U8) {i : Nat} (hi : i < 8) :
    (sub8 0#8 (x &&& 1#8)).getLsbD i = x.getLsbD 0 := by
  rw [BitVec.and_one_eq_setWidth_ofBool_getLsbD]
  cases x.getLsbD 0 with
  | false => exact BitVec.getLsbD_zero
  | true => exact (BitVec.getLsbD_allOnes (v := 8)).trans (decide_eq_true hi)

theorem zz8_getLsbD (x : U8) {i : Nat} (hi : i < 8) :
    (zz8 x).getLsbD i = (x.getLsbD 0 ^^ x.getLsbD (i + 1)) := by
  rw [zz8, BitVec.getLsbD_xor, sub8_zero_lowBit_getLsbD x hi, shr8, BitVec.getLsbD_ushiftRight, Nat.add_comm 1]

theorem add8_self (x : U8) : add8 x x = x <<< 1 := by
  rw [add8, ← BitVec.mul_twoPow_eq_shiftLeft]
  exact (BitVec.mul_two).symm

theorem zzEnc8_getLsbD (x : U8) {i : Nat} (hi : i < 8) :
    (zzEnc8 x).getLsbD i = (x.getLsbD 7 ^^ (decide (0 < i) && x.getLsbD (i - 1))) := by
  rw [zzEnc8, BitVec.getLsbD_xor, Bool.xor_comm, add8_self, BitVec.getLsbD_shiftLeft, BitVec.getLsbD_sshiftRight]
  interval_cases i <;> rfl

/-! ## Their laws -/

/-- R117. -/
@[simp] theorem brev8_brev8 (x : U8) : brev8 (brev8 x) = x := by
  refine BitVec.eq_of_getLsbD_eq fun i hi => ?_
  rw [brev8_getLsbD _ hi, brev8_getLsbD x (by omega), Nat.sub_sub_self (by omega)]

/-- The zigzag encoding is a right inverse of ZZ8 (R103). -/
@[simp] theorem zz8_zzEnc8 (x : U8) : zz8 (zzEnc8 x) = x := by
  refine BitVec.eq_of_getLsbD_eq fun i hi => ?_
  have h0 : (zzEnc8 x).getLsbD 0 = x.getLsbD 7 := by rw [zzEnc8_getLsbD x (by decide)]; simp
  rw [zz8_getLsbD _ hi, h0]
  obtain hlt | rfl : i < 7 ∨ i = 7 := by omega
  · simp [zzEnc8_getLsbD x (Nat.succ_lt_succ hlt)]
  · simp

/-- The zigzag encoding is a left inverse of ZZ8 (R103). -/
@[simp] theorem zzEnc8_zz8 (x : U8) : zzEnc8 (zz8 x) = x := by
  refine BitVec.eq_of_getLsbD_eq fun i hi => ?_
  have h7 : (zz8 x).getLsbD 7 = x.getLsbD 0 := by rw [zz8_getLsbD x (by decide)]; simp
  rw [zzEnc8_getLsbD _ hi, h7]
  cases i with
  | zero => simp
  | succ j => simp [zz8_getLsbD x (Nat.lt_of_succ_lt hi)]

/-- R118's injectivity. -/
theorem zz8_injective : Function.Injective zz8 := Function.LeftInverse.injective zzEnc8_zz8

/-! ## The two operations -/

theorem exec_brev (a : U8) (s : State) : exec (.brev a) s = .next (s.deliver (rspLegal (brev8 a))) :=
  respond_next (brev8 a) s

theorem exec_zzdec (a : U8) (s : State) : exec (.zzdec a) s = .next (s.deliver (rspLegal (zz8 a))) :=
  respond_next (zz8 a) s

theorem State.deliver_injective (s : State) : Function.Injective fun r => s.deliver r := by
  intro r r' h
  simpa using congrArg State.taken h

theorem rspLegal_injective : Function.Injective rspLegal := Function.LeftInverse.injective resultField_rspLegal

/-- Settles O12: the response carries `brev8 a`, whose bits R100 gives. -/
theorem brevAnswersReversedBits : Obligations.BrevAnswersReversedBits := by
  intro a s
  refine ⟨brev8 a, ?_, fun _ hi => brev8_getLsbD a hi⟩
  rw [exec_brev, rspLegal_eq]
  rfl

/-- Settles O13: the second response is that of `brev8 (brev8 a)`. -/
theorem brevIsAnInvolution : Obligations.BrevIsAnInvolution := by
  intro a s
  exact ⟨brev8 a, _, _, exec_brev a s, by simp [rspLegal_eq], exec_brev (brev8 a) _, by simp [rspLegal_eq]⟩

/-- Settles O15: the operand is the zigzag encoding of the byte, and equal next states hold equal response words. -/
theorem zzdecIsABijection : Obligations.ZzdecIsABijection := by
  intro r s
  refine ⟨zzEnc8 r, ?_, fun a' h => ?_⟩
  · rw [exec_zzdec, zz8_zzEnc8, rspLegal_eq]
    rfl
  · rw [exec_zzdec, exec_zzdec] at h
    exact zz8_injective (rspLegal_injective (s.deliver_injective (Host.Outcome.next.inj h)))

end Sys2Proof.Machine
end

section
/-! PROOFS. 42_smooth.md: PSMS is PSM of the masked operand (R144), for `MASK(N, x)` is `x` modulo `2^N`
(40_primitives.md R107). -/

namespace Sys2Proof.Machine

/-! ## The smoothing operand's mask and range -/

theorem inRange_iff (n : Nat) (x : U8) : inRange n x = true ↔ x.toNat ≤ 2 ^ n - 1 := decide_eq_true_iff

/-- R107's second reading of MASK; no bound on `n`, since from 8 on both sides are `x`. -/
theorem mask_toNat (n : Nat) (x : U8) : (mask n x).toNat = x.toNat % 2 ^ n := by
  have hlt : x.toNat % 2 ^ n < 2 ^ 8 := (Nat.mod_le _ _).trans_lt x.isLt
  calc (mask n x).toNat
      = x.toNat &&& (2 ^ n - 1) % 2 ^ 8 := rfl
    _ = x.toNat % 2 ^ 8 &&& (2 ^ n - 1) % 2 ^ 8 := by rw [Nat.mod_eq_of_lt x.isLt]
    _ = x.toNat % 2 ^ n % 2 ^ 8 := by rw [← Nat.and_mod_two_pow, Nat.and_two_pow_sub_one_eq_mod]
    _ = x.toNat % 2 ^ n := Nat.mod_eq_of_lt hlt

@[simp] theorem inRange_mask (n : Nat) (x : U8) : inRange n (mask n x) = true := by
  rw [inRange_iff, mask_toNat]
  exact Nat.le_sub_one_of_lt (Nat.mod_lt _ (Nat.two_pow_pos n))

theorem mask_eq_self {n : Nat} {x : U8} (h : inRange n x = true) : mask n x = x := by
  refine BitVec.eq_of_toNat_eq ?_
  have hlt : x.toNat < 2 ^ n := Nat.lt_of_le_sub_one (Nat.two_pow_pos n) ((inRange_iff n x).1 h)
  rw [mask_toNat, Nat.mod_eq_of_lt hlt]

/-! ## The two operations -/

/-- PSM of an operand in range answers its formula; `OOR_RESULT` and the draw do not show (R141). -/
theorem exec_psm_of_inRange {n : Nat} {c : U8} (h : inRange n c = true) (a b : U8) (s : State) :
    exec (.psm n a b c) s = .next (s.deliver (rspLegal (psmF n a b c))) :=
  if_pos h

/-- PSMS answers the formula of the masked operand (R143). -/
theorem exec_psms (n : Nat) (a b c : U8) (s : State) :
    exec (.psms n a b c) s = .next (s.deliver (rspLegal (psmF n a b (mask n c)))) :=
  respond_next (psmF n a b (mask n c)) s

/-- R144's first sentence. -/
theorem exec_psms_eq_exec_psm_mask (n : Nat) (a b c : U8) (s : State) :
    exec (.psms n a b c) s = exec (.psm n a b (mask n c)) s := by
  rw [exec_psms, exec_psm_of_inRange (inRange_mask n c)]

/-- Settles O21: a masked operand is in range, so PSM answers it by the formula, and an operand in range is its own
mask. -/
theorem psmsIsPsmOfMaskedOperand : Obligations.PsmsIsPsmOfMaskedOperand := by
  intro n a b c s _ _
  refine ⟨exec_psms_eq_exec_psm_mask n a b c s, fun hc => ?_⟩
  rw [exec_psms_eq_exec_psm_mask, mask_eq_self ((inRange_iff n c).2 hc)]

end Sys2Proof.Machine
end

section
/-! PROOFS. 43_paranormal2.md: PN2S is PN2 of the masked operand (R163), which is always in PN2's range. -/

namespace Sys2Proof.Machine

/-- PN2 of an operand in range answers its formula; `OOR_RESULT` and the draw do not show (R160). -/
theorem exec_pn2_of_inRange {n : Nat} {b : U8} (h : inRange n b = true) (a : U8) (s : State) :
    exec (.pn2 n a b) s = .next (s.deliver (rspLegal (pn2F n a b))) :=
  if_pos h

/-- PN2S answers the formula of the masked operand (R162). -/
theorem exec_pn2s (n : Nat) (a b : U8) (s : State) :
    exec (.pn2s n a b) s = .next (s.deliver (rspLegal (pn2F n a (mask n b)))) :=
  respond_next (pn2F n a (mask n b)) s

/-- R163 for every `n`. -/
theorem exec_pn2s_eq_exec_pn2_mask (n : Nat) (a b : U8) (s : State) :
    exec (.pn2s n a b) s = exec (.pn2 n a (mask n b)) s := by
  rw [exec_pn2s, exec_pn2_of_inRange (inRange_mask n b)]

/-- Settles O27: the masked operand is in range, so PN2 answers it by the formula, as PN2S does. -/
theorem pn2sIsPn2OfMaskedOperand : Obligations.Pn2sIsPn2OfMaskedOperand :=
  fun n a b s _ _ => exec_pn2s_eq_exec_pn2_mask n a b s

end Sys2Proof.Machine
end

section
/-! PROOFS. 60_exceptions.md: the first failing check of R67 gives the cause (R202), and no operation raises an
exception (R203). -/

namespace Sys2Proof

/-! ## The decoder's checks in their order -/

theorem decode_of_reservedOp {w : ReqWord} (hop : 8 ≤ (opField w).toNat) : decode w = .illegal .reservedOp :=
  if_pos hop

theorem decode_of_reservedBit {w : ReqWord} (hop : (opField w).toNat < 8) (hrsv : rsvField w = true) :
    decode w = .illegal .reservedBit := by
  simp [decode, Nat.not_le.2 hop, hrsv]

theorem decode_eq_decodeOp {w : ReqWord} (hop : (opField w).toNat < 8) (hrsv : rsvField w = false) :
    decode w = decodeOp w := by
  simp [decode, Nat.not_le.2 hop, hrsv]

/-! ## The operation OP selects (R62) -/

/-- OP 3 to 6 select an operation with a width, which takes NSEL's value (R63). -/
theorem decodeOp_eq_withWidth {w : ReqWord} (hop : 3 ≤ (opField w).toNat ∧ (opField w).toNat ≤ 6) :
    ∃ mk : Nat → Instr, decodeOp w = withWidth w mk ∧
      ∀ n, (mk n).opcode = opField w ∧ (mk n).width = some n := by
  obtain ⟨hlo, hhi⟩ := hop
  unfold decodeOp
  generalize opField w = op at hlo hhi
  obtain rfl | rfl | rfl | rfl : op = 3#4 ∨ op = 4#4 ∨ op = 5#4 ∨ op = 6#4 := by bv_omega
  all_goals exact ⟨_, rfl, fun _ => ⟨rfl, rfl⟩⟩

/-- The other unreserved OP values select an operation without a width (R64). -/
theorem decodeOp_eq_withoutWidth {w : ReqWord} (hlt : (opField w).toNat < 8)
    (hop : ¬(3 ≤ (opField w).toNat ∧ (opField w).toNat ≤ 6)) :
    ∃ i : Instr, decodeOp w = withoutWidth w i ∧ i.opcode = opField w ∧ i.width = none := by
  unfold decodeOp
  generalize opField w = op at hlt hop
  obtain rfl | rfl | rfl | rfl : op = 0#4 ∨ op = 1#4 ∨ op = 2#4 ∨ op = 7#4 := by bv_omega
  all_goals exact ⟨_, rfl, rfl, rfl⟩

/-- Settles O3: one lemma per check in the order of R67; past the first two, OP fixes whether the operation has a width
and so which NSEL values are cause 3. -/
theorem firstFailingCheckGivesTheCause : Obligations.FirstFailingCheckGivesTheCause := by
  intro w
  refine ⟨decode_of_reservedOp, decode_of_reservedBit, fun hlt hrsv => ?_⟩
  rw [decode_eq_decodeOp hlt hrsv]
  refine ⟨fun hop hn => ?_, fun hop hn => ?_, fun hop hn => ?_, fun hop hn => ?_⟩
  · obtain ⟨mk, hdec, -⟩ := decodeOp_eq_withWidth hop
    exact hdec.trans (if_pos hn)
  · obtain ⟨mk, hdec, hmk⟩ := decodeOp_eq_withWidth hop
    exact ⟨mk (nselField w).toNat, hdec.trans (if_neg (Nat.not_lt.2 hn)), hmk _⟩
  · obtain ⟨i, hdec, -⟩ := decodeOp_eq_withoutWidth hlt hop
    exact hdec.trans (if_pos hn)
  · obtain ⟨i, hdec, hi⟩ := decodeOp_eq_withoutWidth hlt hop
    exact ⟨i, hdec.trans (if_neg (not_not.2 hn)), hi⟩

end Sys2Proof

namespace Sys2Proof.Machine

/-- Settles O29: an operation delivers one legal response word, at most after a draw. -/
theorem noExecutionTimeException : Obligations.NoExecutionTimeException := by
  intro i s
  obtain ⟨r, hexec⟩ | ⟨r, hexec⟩ := exec_cases i s
  all_goals rw [rspLegal_eq] at hexec
  · exact ⟨r, s.draws, hexec, .inl rfl⟩
  · exact ⟨r, s.draws + 1, hexec, .inr rfl⟩

end Sys2Proof.Machine
end

section
/-! PROOFS. 70_reset_and_hazards.md: a full Q stalls the request channel (R235), and Q is empty at the end of a run
(R236). Both carry a fact along a run by `run_keeps`. -/

namespace Sys2Proof.Machine

/-! ## What every step keeps, a run keeps -/

/-- A run of `k + 1` steps is a step and a run of `k`. -/
theorem run_succ {M : Host.Core} {k : Nat} {s t : M.State} (h : M.run (k + 1) s = .next t) :
    ∃ u, M.step s = .next u ∧ M.run k u = .next t := by
  unfold Host.Core.run at h
  split at h
  · exact ⟨_, ‹_›, h⟩
  · cases h
  · cases h

/-- The induction over a run, once for all invariants. -/
theorem run_keeps {M : Host.Core} {P : M.State → Prop} (hstep : ∀ s t, P s → M.step s = .next t → P t) {k : Nat}
    {s t : M.State} (hs : P s) (hrun : M.run k s = .next t) : P t := by
  induction k generalizing s with
  | zero => cases hrun; exact hs
  | succ k ih =>
    obtain ⟨u, hu, hrest⟩ := run_succ hrun
    exact ih (hstep s u hs hu) hrest

/-! ## A full Q -/

/-- R31: `req_ready` is 0 while `|Q| = DEPTH`. -/
theorem State.reqReady_of_full {s : State} (hfull : s.queue.length = Config.depth) (e : Edge) :
    s.reqReady e = false := by
  simp [State.reqReady, State.full, hfull]

theorem State.arrivals_of_full {s : State} (hfull : s.queue.length = Config.depth) (e : Edge) :
    s.arrivals e = [] := by
  simp [State.arrivals, State.acceptsRequest, State.reqReady_of_full hfull]

theorem State.length_words (s : State) : s.words.length = s.queue.length := List.length_map _

/-- No coming edge is under reset or takes a response. -/
def State.HostTakesNothing (s : State) : Prop := ∀ e ∈ s.schedule, e.rst = false ∧ e.rspReady = false

/-- Past the end of the schedule the host takes nothing either (log entry 4). -/
theorem State.HostTakesNothing.nextEdge {s : State} (h : s.HostTakesNothing) :
    s.nextEdge.rst = false ∧ s.nextEdge.rspReady = false := by
  cases hsch : s.schedule with
  | nil => rw [State.nextEdge_nil hsch]; exact ⟨rfl, rfl⟩
  | cons e es => rw [State.nextEdge_cons hsch]; exact h e (by simp [hsch])

/-- Where the host takes nothing, a step is the rest of an edge alone: no reset, and Q's head is not served. -/
theorem State.HostTakesNothing.step_eq {s t : State} (h : s.HostTakesNothing) (hstep : step s = .next t) :
    t = s.finishEdge s.nextEdge s := by
  obtain ⟨hrst, hready⟩ := h.nextEdge
  obtain ⟨-, ⟨hrst', -⟩ | ⟨-, htake, -⟩ | ⟨-, -, rfl⟩⟩ := step_cases hstep
  · simp [hrst] at hrst'
  · simp [State.takesResponse, hready] at htake
  · rfl

/-- `t` holds the words, responses and acceptances of `s`, and its host goes on taking nothing. -/
structure State.StalledAt (s t : State) : Prop where
  words : t.words = s.words
  taken : t.taken = s.taken
  accepted : t.accepted = s.accepted
  takesNothing : t.HostTakesNothing

theorem State.StalledAt.full {s t : State} (h : s.StalledAt t) (hfull : s.queue.length = Config.depth) :
    t.queue.length = Config.depth := by
  rw [← t.length_words, h.words, s.length_words, hfull]

/-- An edge at which the host takes nothing keeps a full Q stalled: nothing arrives, and the entries only age. -/
theorem State.StalledAt.step {s t u : State} (hfull : s.queue.length = Config.depth) (h : s.StalledAt t)
    (hstep : step t = .next u) : s.StalledAt u := by
  obtain rfl := h.takesNothing.step_eq hstep
  have harr : t.arrivals t.nextEdge = [] := State.arrivals_of_full (h.full hfull) _
  exact
    { words := by rw [State.words, State.finishEdge_queue, harr, List.append_nil, words_of_ticks]; exact h.words
      taken := h.taken
      accepted := by simpa [harr] using h.accepted
      takesNothing := fun e he => h.takesNothing e (List.mem_of_mem_tail he) }

/-- Settles O37: a run keeps the stall `StalledAt`, and with Q's words it keeps Q full. -/
theorem fullQueueStallsForGood : Obligations.FullQueueStallsForGood := by
  intro s hfull
  refine ⟨State.reqReady_of_full hfull, fun k t hhost hrun => ?_⟩
  have hstall : s.StalledAt t := run_keeps (fun _ _ => State.StalledAt.step hfull) ⟨rfl, rfl, rfl, hhost⟩ hrun
  exact ⟨hstall.words, hstall.taken, hstall.accepted, State.reqReady_of_full (hstall.full hfull)⟩

/-! ## The end of a run -/

/-- In response order, as many responses as acceptances leave no word in Q and answer all of them. -/
theorem State.OrderInv.of_runEnded {s : State} {program : List ReqWord} (h : s.OrderInv)
    (hend : s.runEnded program) : s.queue = [] ∧ List.Forall₂ Admissible program s.taken := by
  obtain ⟨rfl, hlen⟩ := hend
  have hwords : s.words = [] := by rw [← h.inFlight, hlen, List.drop_length]
  have hans := h.answered
  rw [hlen, List.take_length] at hans
  exact ⟨s.words_nil_iff.1 hwords, hans⟩

/-- Settles O46: a run keeps the response order as each step does (O41), and at the run's end the order leaves nothing in
Q. -/
theorem endedRunLeavesQueueEmpty : Obligations.EndedRunLeavesQueueEmpty := by
  intro k s t program hs hrun
  have ht : t.OrderInv := run_keeps (M := Sys2Proof.core) stepKeepsResponseOrder hs hrun
  exact ⟨ht, ht.of_runEnded⟩

end Sys2Proof.Machine
end

section
/-! PROOFS. 30_encoding.md: decoding and encoding undo each other (R67, R73), the fields an operation ignores (R66), the
28 legal command bytes (R72), and the byte lanes of 20_memory.md R41. All but the lanes rest on
`decode_eq_legal_iff`: a word decodes to an operation exactly if it has its command byte and its operand bytes. -/

namespace Sys2Proof

/-! ## The command byte -/

/-- The command byte of an operation's encoding, N being 0 where it has none (R73). -/
def Instr.command (i : Instr) : U8 := commandByte (i.width.getD 0) i.opcode

/-- The command byte of a word (R60). -/
abbrev commandField (w : ReqWord) : U8 := w.extractLsb' 0 8

/-- With RSV 0 the command byte is NSEL and OP. -/
theorem commandField_eq_commandByte {w : ReqWord} (hrsv : rsvField w = false) :
    commandField w = commandByte (nselField w).toNat (opField w) := by
  refine BitVec.eq_of_getLsbD_eq fun i hi => ?_
  rw [commandByte_getLsbD, BitVec.ofNat_toNat, BitVec.setWidth_eq]
  split_ifs with hlow
  · simp [commandField, opField, hi, hlow]
  · obtain h | rfl : i - 4 < 3 ∨ i = 7 := by omega
    · simp [commandField, nselField, hi, h, show 4 + (i - 4) = i by omega]
    · simpa [commandField, rsvField] using hrsv

/-- A command byte built by the encoder is read back by the decoder's checks. -/
theorem fields_of_commandField {w : ReqWord} {n : Nat} {op : BitVec 4} (h : commandField w = commandByte n op) :
    opField w = op ∧ nselField w = BitVec.ofNat 3 n ∧ rsvField w = false := by
  have hw : w = packWord (cField w) (bField w) (aField w) (commandByte n op) := by
    rw [← h]; exact (packWord_fields w).symm
  rw [hw]
  simp

/-! ## What a legal word is -/

/-- The operation's operands are the operand bytes of the word (R60). -/
def Instr.ReadFrom (w : ReqWord) : Instr → Prop
  | .brev a => a = aField w
  | .zzdec a => a = aField w
  | .pn1 a b => a = aField w ∧ b = bField w
  | .psm _ a b c => a = aField w ∧ b = bField w ∧ c = cField w
  | .psms _ a b c => a = aField w ∧ b = bField w ∧ c = cField w
  | .pn2 _ a b => a = aField w ∧ b = bField w
  | .pn2s _ a b => a = aField w ∧ b = bField w
  | .tiny a => a = aField w

theorem withWidth_eq_legal_iff {w : ReqWord} {mk : Nat → Instr} {i : Instr} :
    withWidth w mk = .legal i ↔ 2 ≤ (nselField w).toNat ∧ mk (nselField w).toNat = i := by
  unfold withWidth
  split
  · simp; omega
  · simp; omega

theorem withoutWidth_eq_legal_iff {w : ReqWord} {i j : Instr} :
    withoutWidth w j = .legal i ↔ (nselField w).toNat = 0 ∧ j = i := by
  unfold withoutWidth
  split
  · simp; omega
  · simp; omega

/-- A legal word passed the checks on OP and RSV (R67). -/
theorem decode_eq_legal_iff_decodeOp {w : ReqWord} {i : Instr} :
    decode w = .legal i ↔ (opField w).toNat < 8 ∧ rsvField w = false ∧ decodeOp w = .legal i := by
  unfold decode
  split
  · simp; omega
  · split
    · simp [*]
    · simp [*]; omega

/-- The operation OP selects has OP's value, NSEL as its width and the operand bytes as its operands. -/
theorem of_decodeOp_eq_legal {w : ReqWord} {i : Instr} (h : decodeOp w = .legal i) :
    i.wf = true ∧ i.opcode = opField w ∧ i.width.getD 0 = (nselField w).toNat ∧ i.ReadFrom w := by
  have hnsel : (nselField w).toNat < 8 := (nselField w).isLt
  unfold decodeOp at h
  split at h
  case h_9 => cases h
  case h_1 hop | h_2 hop | h_3 hop | h_8 hop =>
    obtain ⟨hn, rfl⟩ := withoutWidth_eq_legal_iff.1 h
    exact ⟨rfl, BitVec.eq_of_toNat_eq hop.symm, hn.symm, by simp [Instr.ReadFrom]⟩
  all_goals
    rename_i hop
    obtain ⟨hn, rfl⟩ := withWidth_eq_legal_iff.1 h
    exact ⟨(legalWidth_iff _).2 ⟨hn, by omega⟩, BitVec.eq_of_toNat_eq hop.symm, rfl, by simp [Instr.ReadFrom]⟩

/-- A word with the command byte and the operand bytes of a well-formed operation selects it. -/
theorem decodeOp_eq_legal {w : ReqWord} {i : Instr} (hwf : i.wf = true) (hop : opField w = i.opcode)
    (hnsel : (nselField w).toNat = i.width.getD 0) (hread : i.ReadFrom w) : decodeOp w = .legal i := by
  cases i with
  | brev a | zzdec a | tiny a =>
    cases hread
    simp [decodeOp, hop, Instr.opcode, withoutWidth, hnsel, Instr.width]
  | pn1 a b =>
    obtain ⟨rfl, rfl⟩ := hread
    simp [decodeOp, hop, Instr.opcode, withoutWidth, hnsel, Instr.width]
  | pn2 n a b | pn2s n a b =>
    obtain ⟨rfl, rfl⟩ := hread
    have hn : 1 < n := ((legalWidth_iff n).1 hwf).1
    simp [decodeOp, hop, Instr.opcode, withWidth, hnsel, Instr.width, hn]
  | psm n a b c | psms n a b c =>
    obtain ⟨rfl, rfl, rfl⟩ := hread
    have hn : 1 < n := ((legalWidth_iff n).1 hwf).1
    simp [decodeOp, hop, Instr.opcode, withWidth, hnsel, Instr.width, hn]

/-- NSEL keeps the width of a well-formed operation, and 0 where it has none (R63, R64). -/
theorem Instr.toNat_ofNat_width {i : Instr} (hwf : i.wf = true) :
    (BitVec.ofNat 3 (i.width.getD 0)).toNat = i.width.getD 0 := by
  cases i with
  | brev _ | zzdec _ | pn1 _ _ | tiny _ => rfl
  | psm _ _ _ _ | psms _ _ _ _ | pn2 _ _ _ | pn2s _ _ _ => exact toNat_ofNat_of_legalWidth hwf

theorem Instr.opcode_lt (i : Instr) : i.opcode.toNat < 8 := by
  cases i <;> simp [Instr.opcode]

/-- A word decodes to an operation exactly if that is well-formed and the word has its command byte and operand bytes. -/
theorem decode_eq_legal_iff {w : ReqWord} {i : Instr} :
    decode w = .legal i ↔ i.wf = true ∧ commandField w = i.command ∧ i.ReadFrom w := by
  rw [decode_eq_legal_iff_decodeOp]
  constructor
  · rintro ⟨-, hrsv, hdec⟩
    obtain ⟨hwf, hop, hnsel, hread⟩ := of_decodeOp_eq_legal hdec
    exact ⟨hwf, by rw [commandField_eq_commandByte hrsv, Instr.command, hop, hnsel], hread⟩
  · rintro ⟨hwf, hcmd, hread⟩
    obtain ⟨hop, hnsel, hrsv⟩ := fields_of_commandField hcmd
    have hn : (nselField w).toNat = i.width.getD 0 := by rw [hnsel, Instr.toNat_ofNat_width hwf]
    exact ⟨hop ▸ i.opcode_lt, hrsv, decodeOp_eq_legal hwf hop hn hread⟩

/-- Settles O1: an encoding has its operation's command byte and operand bytes. -/
theorem decodeOfEncodeIsTheOperation : Obligations.DecodeOfEncodeIsTheOperation := by
  intro i hwf
  refine decode_eq_legal_iff.2 ⟨hwf, ?_⟩
  cases i <;> exact ⟨by simp [commandField, encode]; rfl, by simp [Instr.ReadFrom, encode]⟩

/-! ## The used bits -/

theorem and_packWord (w : ReqWord) (c b a d : U8) :
    w &&& packWord c b a d = packWord (cField w &&& c) (bField w &&& b) (aField w &&& a) (commandField w &&& d) := by
  conv_lhs => rw [← packWord_fields w]
  refine BitVec.eq_of_getLsbD_eq fun i _ => ?_
  rw [BitVec.getLsbD_and]
  simp only [packWord_getLsbD]
  split_ifs <;> simp

theorem packWord_inj {c b a d c' b' a' d' : U8} :
    packWord c b a d = packWord c' b' a' d' ↔ d = d' ∧ a = a' ∧ b = b' ∧ c = c' := by
  refine ⟨fun h => ⟨?_, ?_, ?_, ?_⟩, by rintro ⟨rfl, rfl, rfl, rfl⟩; rfl⟩
  · simpa using congrArg commandField h
  · simpa using congrArg aField h
  · simpa using congrArg bField h
  · simpa using congrArg cField h

/-- The three masks of R66, byte by byte. -/
theorem usedBits_a : 0x0000FFFF#32 = packWord 0#8 0#8 0xFF#8 0xFF#8 := by decide
theorem usedBits_ab : 0x00FFFFFF#32 = packWord 0#8 0xFF#8 0xFF#8 0xFF#8 := by decide
theorem usedBits_abc : 0xFFFFFFFF#32 = packWord 0xFF#8 0xFF#8 0xFF#8 0xFF#8 := by decide

/-- An operation's encoding is a word with the ignored fields 0 exactly if the word has its command byte and operand
bytes. -/
theorem encode_eq_and_usedBits_iff {w : ReqWord} {i : Instr} :
    encode i = w &&& usedBits i ↔ commandField w = i.command ∧ i.ReadFrom w := by
  have hff : ∀ x : U8, x &&& 0xFF#8 = x := fun _ => BitVec.and_allOnes
  cases i <;>
    simp [usedBits, usedBits_a, usedBits_ab, usedBits_abc, and_packWord, hff, encode, packWord_inj, Instr.command,
      Instr.width, Instr.opcode, Instr.ReadFrom, eq_comm]

/-- Settles O2. -/
theorem legalWordIsItsOperationsEncoding : Obligations.LegalWordIsItsOperationsEncoding := by
  intro w i hdec
  obtain ⟨hwf, hfields⟩ := decode_eq_legal_iff.1 hdec
  exact ⟨hwf, encode_eq_and_usedBits_iff.2 hfields⟩

/-! ## Fields without effect -/

/-- The cause of an illegal word. -/
def Verdict.cause : Verdict → Option Cause
  | .legal _ => none
  | .illegal c => some c

theorem Verdict.cause_eq_some {v : Verdict} {c : Cause} : v.cause = some c ↔ v = .illegal c := by
  cases v <;> simp [Verdict.cause]

/-- OP, NSEL and RSV alone decide legality and the cause (R65, R68). -/
theorem cause_decode_congr {w w' : ReqWord} (hop : opField w = opField w') (hnsel : nselField w = nselField w')
    (hrsv : rsvField w = rsvField w') : (decode w).cause = (decode w').cause := by
  obtain ⟨h1, h2, h3⟩ := firstFailingCheckGivesTheCause w
  obtain ⟨h1', h2', h3'⟩ := firstFailingCheckGivesTheCause w'
  rw [hop, hrsv, hnsel] at h3
  rw [hop] at h1 h2
  rw [hrsv] at h2
  by_cases h8 : 8 ≤ (opField w').toNat
  · rw [h1 h8, h1' h8]
  have hlt := Nat.lt_of_not_le h8
  by_cases hr : rsvField w' = true
  · rw [h2 hlt hr, h2' hlt hr]
  obtain ⟨hbad, hwidth, hbad0, hnone⟩ := h3 hlt (eq_false_of_ne_true hr)
  obtain ⟨hbad', hwidth', hbad0', hnone'⟩ := h3' hlt (eq_false_of_ne_true hr)
  by_cases hsel : 3 ≤ (opField w').toNat ∧ (opField w').toNat ≤ 6
  · obtain hn | hn := Nat.lt_or_ge (nselField w').toNat 2
    · rw [hbad hsel hn, hbad' hsel hn]
    · obtain ⟨i, hi, -⟩ := hwidth hsel hn
      obtain ⟨i', hi', -⟩ := hwidth' hsel hn
      rw [hi, hi']
      rfl
  · by_cases hn : (nselField w').toNat = 0
    · obtain ⟨i, hi, -⟩ := hnone hsel hn
      obtain ⟨i', hi', -⟩ := hnone' hsel hn
      rw [hi, hi']
      rfl
    · rw [hbad0 hsel hn, hbad0' hsel hn]

/-- The command byte holds OP, NSEL and RSV. -/
theorem cause_decode_of_commandField {w w' : ReqWord} (h : commandField w = commandField w') :
    (decode w).cause = (decode w').cause := by
  apply cause_decode_congr
  · exact (opField_eq_command w).trans ((congrArg _ h).trans (opField_eq_command w').symm)
  · exact (nselField_eq_command w).trans ((congrArg _ h).trans (nselField_eq_command w').symm)
  · exact (rsvField_eq_command w).trans ((congrArg (BitVec.getLsbD · 7) h).trans (rsvField_eq_command w').symm)

/-- Settles O6. -/
theorem ignoredFieldsHaveNoEffect : Obligations.IgnoredFieldsHaveNoEffect := by
  refine ⟨fun w w' i hdec hused => ?_, fun w w' c hcmd hdec => ?_⟩
  · obtain ⟨hwf, henc⟩ := legalWordIsItsOperationsEncoding w i hdec
    exact decode_eq_legal_iff.2 ⟨hwf, encode_eq_and_usedBits_iff.1 (henc.trans hused)⟩
  · rw [← Verdict.cause_eq_some, ← cause_decode_of_commandField hcmd, hdec, Verdict.cause]

/-! ## The legal command bytes -/

/-- The command bytes `ds` of an operation with a width are those of the six widths (R63, R72). -/
theorem exists_commandByte_iff {op : BitVec 4} {ds : List U8}
    (hds : ([2, 3, 4, 5, 6, 7].map fun n => commandByte n op) = ds) (d : U8) :
    (∃ n, legalWidth n = true ∧ d = commandByte n op) ↔ d ∈ ds := by
  have hmem : ∀ n, legalWidth n = true ↔ n ∈ [2, 3, 4, 5, 6, 7] := by
    intro n
    simp only [legalWidth_iff, List.mem_cons, List.not_mem_nil, or_false]
    omega
  simp only [← hds, hmem, List.mem_map, eq_comm (a := d)]

/-- An operation is one of the eight, in the order of R72's tally. -/
theorem Instr.exists_iff {p : Instr → Prop} :
    (∃ i, p i) ↔ (∃ a, p (.brev a)) ∨ (∃ a, p (.zzdec a)) ∨ (∃ a b, p (.pn1 a b)) ∨ (∃ a, p (.tiny a)) ∨
      (∃ n a b c, p (.psm n a b c)) ∨ (∃ n a b c, p (.psms n a b c)) ∨
      (∃ n a b, p (.pn2 n a b)) ∨ (∃ n a b, p (.pn2s n a b)) := by
  constructor
  · rintro ⟨i, hi⟩
    cases i <;> grind
  · grind

/-- Settles O4: a word is legal wherever it has the command byte of a well-formed operation, for that reads its operands
off the word. -/
theorem legalCommandByteTally : Obligations.LegalCommandByteTally := by
  refine ⟨fun w => ?_, rfl, by decide⟩
  have hnone : commandByte 0 0x0#4 = 0x00#8 ∧ commandByte 0 0x1#4 = 0x01#8 ∧ commandByte 0 0x2#4 = 0x02#8 ∧
      commandByte 0 0x7#4 = 0x07#8 := by decide
  have hpsm := exists_commandByte_iff (op := 0x3#4)
    (by decide : _ = [0x23#8, 0x33#8, 0x43#8, 0x53#8, 0x63#8, 0x73#8])
  have hpsms := exists_commandByte_iff (op := 0x4#4)
    (by decide : _ = [0x24#8, 0x34#8, 0x44#8, 0x54#8, 0x64#8, 0x74#8])
  have hpn2 := exists_commandByte_iff (op := 0x5#4)
    (by decide : _ = [0x25#8, 0x35#8, 0x45#8, 0x55#8, 0x65#8, 0x75#8])
  have hpn2s := exists_commandByte_iff (op := 0x6#4)
    (by decide : _ = [0x26#8, 0x36#8, 0x46#8, 0x56#8, 0x66#8, 0x76#8])
  simp only [Instr.exists_iff, decode_eq_legal_iff, Instr.wf, Instr.command, Instr.opcode, Instr.width, Option.getD,
    Instr.ReadFrom, true_and, exists_and_left, exists_eq, and_true, hnone, hpsm, hpsms, hpn2, hpn2s,
    legalCommandBytes, List.mem_cons, List.not_mem_nil, or_false, or_assoc, and_self]

/-- Settles O5: each word is closed, so the decoder runs on it. -/
theorem writtenOutWordsDecode : Obligations.WrittenOutWordsDecode := by
  unfold Obligations.WrittenOutWordsDecode
  decide

/-! ## The byte lanes (20_memory.md R41) -/

theorem decodeLanes_lanesOfWord (w : ReqWord) (rest : List U8) :
    decodeLanes (lanesOfWord w ++ rest) = .word (decode w) rest :=
  congrArg (fun v => LaneVerdict.word (decode v) rest) (packWord_fields w)

/-- Settles O7: the four lanes are the command byte and the operand bytes, lowest first. -/
theorem littleEndianLanes : Obligations.LittleEndianLanes := by
  refine ⟨decodeLanes_lanesOfWord, fun w i j hi hj => ?_, fun r i j hi hj => ?_⟩
  · interval_cases i <;> simp [lanesOfWord, hj]
  · interval_cases i <;> simp [lanesOfResponse, hj]

end Sys2Proof
end

section
/-! PROOFS. 10_state.md: what a clock edge does to Q, to the handshakes and to the records (R27 to R32), under reset too
(70_reset_and_hazards.md R230, R231, R234). `step_eq_finishEdge` says once what a step without reset answers. -/

namespace Sys2Proof.Machine

/-! ## The step in one equation -/

theorem serveHead_of_legal {s : State} {f : Flight} {rest : List Flight} {i : Instr} (hq : s.queue = f :: rest)
    (hdec : decode f.word = .legal i) : serveHead s = exec i s := by
  simp [serveHead, hq, hdec]

theorem serveHead_of_illegal {s : State} {f : Flight} {rest : List Flight} {c : Cause} (hq : s.queue = f :: rest)
    (hdec : decode f.word = .illegal c) : serveHead s = .next (s.deliver (rspIllegal c)) := by
  simp [serveHead, hq, hdec, raiseIllegal_next]

theorem step_of_holdBroken {s : State} (h : s.holdBroken s.nextEdge = true) : step s = .fault .requestNotHeld :=
  if_pos h

theorem step_of_rst {s : State} (hhold : s.holdBroken s.nextEdge = false) (hrst : s.nextEdge.rst = true) :
    step s = .next (s.resetEdge s.nextEdge) := by
  simp [step, clockEdge, hhold, hrst]

theorem step_of_not_takesResponse {s : State} (hhold : s.holdBroken s.nextEdge = false)
    (hrst : s.nextEdge.rst = false) (htake : s.takesResponse s.nextEdge = false) :
    step s = .next (s.finishEdge s.nextEdge s) := by
  simp [step, clockEdge, hhold, hrst, htake]

/-- `rsp_word` of a valid response is RESP of Q's head (R32). -/
theorem State.rspWord_of_rspValidOut {s : State} {e : Edge} {f : Flight} {rest : List Flight}
    (hvalid : s.rspValidOut e = true) (hq : s.queue = f :: rest) :
    s.rspWord e = resp Config.oorResult (Config.freeByte s.draws) f.word := by
  simp [State.rspWord, hvalid, hq]

/-- The state after the response taken at an edge, if one is: its head has left Q, the host has the word on `rsp_word`,
and `d` draws are used. -/
def State.responded (s : State) (e : Edge) (d : Nat) : State :=
  { s with
    queue := if s.takesResponse e then s.queue.tail else s.queue
    taken := s.taken ++ if s.takesResponse e then [s.rspWord e] else []
    draws := d }

theorem State.responded_of_not_takesResponse {s : State} {e : Edge} (h : s.takesResponse e = false) :
    s.responded e s.draws = s := by
  simp [State.responded, h]

/-- Serving Q's head takes the response on `rsp_word`. -/
theorem serveHead_eq_responded {s : State} {e : Edge} (htake : s.takesResponse e = true) :
    ∃ d, serveHead s = .next (s.responded e d) := by
  obtain ⟨f, rest, hq⟩ := List.exists_cons_of_ne_nil (State.queue_ne_nil_of_takesResponse htake)
  have hvalid : s.rspValidOut e = true := ((s.takesResponse_iff e).1 htake).2
  rw [serveHead_answers_resp hq, ← State.rspWord_of_rspValidOut hvalid hq]
  cases oorWord f.word with
  | false => exact ⟨s.draws, by simp [State.responded, State.deliver, htake]⟩
  | true => exact ⟨s.draws + 1, by simp [State.responded, State.deliver, State.drawn, htake]⟩

/-- A step without reset takes the response, if one is taken, and finishes the edge. -/
theorem step_eq_finishEdge {s : State} (hhold : s.holdBroken s.nextEdge = false) (hrst : s.nextEdge.rst = false) :
    ∃ d, step s = .next (s.finishEdge s.nextEdge (s.responded s.nextEdge d)) ∧
      (s.takesResponse s.nextEdge = false → d = s.draws) := by
  cases htake : s.takesResponse s.nextEdge with
  | false =>
    refine ⟨s.draws, ?_, fun _ => rfl⟩
    rw [State.responded_of_not_takesResponse htake, step_of_not_takesResponse hhold hrst htake]
  | true =>
    obtain ⟨d, hserve⟩ := serveHead_eq_responded htake
    exact ⟨d, by rw [step_of_takesResponse hhold htake, hserve, afterNext_next], by simp⟩

/-! ## The invariant of Q (R27, R31, R32) -/

theorem headReady_iff (q : List Flight) : headReady q = true ↔ ∃ f, q.head? = some f ∧ Config.lat ≤ f.cycles := by
  cases q <;> simp

theorem State.arrivals_of_not_acceptsRequest {s : State} {e : Edge} (h : s.acceptsRequest e = false) :
    s.arrivals e = [] := by
  simp [State.arrivals, h]

/-- A request is accepted only where Q has room (R31). -/
theorem State.length_queue_add_arrivals_le {s : State} (h : s.queue.length ≤ Config.depth) (e : Edge) :
    s.queue.length + (s.arrivals e).length ≤ Config.depth := by
  obtain ⟨hacc, harr⟩ | ⟨-, harr⟩ := s.arrivals_cases e
  · obtain ⟨-, -, hroom⟩ := (s.reqReady_iff e).1 ((s.acceptsRequest_iff e).1 hacc).2
    simpa [harr] using hroom
  · simpa [harr] using h

theorem State.cycles_of_mem_arrivals {s : State} {e : Edge} {f : Flight} (hf : f ∈ s.arrivals e) : f.cycles = 1 := by
  obtain ⟨-, harr⟩ | ⟨-, harr⟩ := s.arrivals_cases e
  all_goals simp [harr] at hf
  rw [hf]

/-- The end of an edge keeps the invariant, whatever of Q's tail the response at it has left, provided that Q is whole
where none was taken. -/
theorem State.QueueInv.finishEdge {s u : State} {e : Edge} (h : s.QueueInv) (hsuffix : u.queue <:+ s.queue)
    (hwhole : s.takesResponse e = false → u.queue = s.queue) : (s.finishEdge e u).QueueInv := by
  constructor
  case capacity =>
    have hlen := s.length_queue_add_arrivals_le h.capacity e
    have hle := hsuffix.length_le
    simp only [State.finishEdge_queue, List.length_append, List.length_map]
    omega
  case valid =>
    intro hvalid
    rw [State.finishEdge_rspValid, Bool.or_eq_true, Bool.and_eq_true, Bool.and_eq_true] at hvalid
    obtain ⟨hout, htake⟩ | ⟨-, hready⟩ := hvalid
    · obtain ⟨f, hf, hlat⟩ := h.valid ((s.rspValidOut_iff e).1 hout).2.1
      refine ⟨f.tick, ?_, Nat.le_succ_of_le hlat⟩
      simp [hwhole (by simpa using htake), hf]
    · exact (headReady_iff _).1 hready
  case ordered =>
    rw [State.finishEdge_queue, List.pairwise_append]
    refine ⟨?_, ?_, ?_⟩
    · exact (h.ordered.sublist hsuffix.sublist).map _ fun f g hfg => Nat.succ_lt_succ hfg
    · obtain ⟨-, harr⟩ | ⟨-, harr⟩ := s.arrivals_cases e <;> simp [harr]
    · intro f hf g hg
      obtain ⟨f', hf', rfl⟩ := List.mem_map.1 hf
      rw [State.cycles_of_mem_arrivals hg]
      exact Nat.lt_succ_of_le (h.positive f' (hsuffix.subset hf'))
  case positive =>
    intro f hf
    rw [State.finishEdge_queue] at hf
    obtain hf | hf := List.mem_append.1 hf
    · obtain ⟨f, -, rfl⟩ := List.mem_map.1 hf
      exact Nat.succ_pos _
    · exact (State.cycles_of_mem_arrivals hf).ge

theorem State.queueInv_of_empty {s : State} (hq : s.queue = []) (hvalid : s.rspValid = false) : s.QueueInv where
  capacity := by simp [hq]
  valid := by simp [hvalid]
  ordered := by simp [hq]
  positive := by simp [hq]

/-- Settles O40: a reset edge empties Q, and any other finishes an edge over Q or, where a response is taken, its tail. -/
theorem stepKeepsQueueInvariant : Obligations.StepKeepsQueueInvariant := by
  intro s t h hstep
  obtain ⟨-, ⟨-, rfl⟩ | ⟨-, htake, u, hu, rfl⟩ | ⟨-, -, rfl⟩⟩ := step_cases hstep
  · exact State.queueInv_of_empty rfl rfl
  · obtain ⟨d, hserve⟩ := serveHead_eq_responded htake
    cases hserve.symm.trans hu
    refine h.finishEdge ?_ (by simp [htake])
    simpa [State.responded, htake] using List.tail_suffix s.queue
  · exact h.finishEdge (List.suffix_refl _) fun _ => rfl

/-! ## The responses of a run (R45, R46) -/

/-- Where `OOR_RESULT` decides no word, the admissible responses are one sequence. -/
theorem eq_map_resp_of_admissible {ws : List ReqWord} {rs : List RspWord} (h : List.Forall₂ Admissible ws rs)
    (hoor : ∀ w ∈ ws, oorWord w = false) (o : OorResult) (free : U8) : rs = ws.map (resp o free) := by
  induction h with
  | nil => rfl
  | cons hadm _ ih =>
    obtain ⟨free', rfl⟩ := hadm
    obtain ⟨hw, hws⟩ := List.forall_mem_cons.1 hoor
    rw [List.map_cons, ← ih hws, resp_eq_of_not_oorWord hw]

/-- Settles O44: a run keeps the response order as each step does (O41), and the order fixes the responses to words that
`OOR_RESULT` does not decide. -/
theorem responsesAreTheSameForEverySchedule : Obligations.ResponsesAreTheSameForEverySchedule := by
  intro k s t hs hrun
  have ht : t.OrderInv := run_keeps (M := Sys2Proof.core) stepKeepsResponseOrder hs hrun
  exact ⟨ht, fun hoor => eq_map_resp_of_admissible ht.answered fun w hw => hoor w (List.mem_of_mem_take hw)⟩

end Sys2Proof.Machine
end

section
/-! PROOFS. 10_state.md and 70_reset_and_hazards.md: each kind of edge and the latency of one request,
read off `step_eq_finishEdge` and its companions. -/

namespace Sys2Proof.Machine

/-! ## The edge at which a response is taken -/

/-- Settles O30: the served head is the decoded operation, which answers a next state (`exec_answers`). -/
theorem stepRunsTheDecodedHead : Obligations.StepRunsTheDecodedHead := by
  intro s f rest i hq hdec hhold htake
  have hstep : step s = afterNext (s.finishEdge s.nextEdge) (exec i s) := by
    rw [step_of_takesResponse hhold htake, serveHead_of_legal hq hdec]
  have hexec := exec_answers i s
  exact ⟨hstep, _, hexec, by rw [hstep, hexec, afterNext_next]⟩

theorem rspIllegal_eq_code (c : Cause) : rspIllegal c = 0x0100#16 ||| (c.code.setWidth 16 <<< 9) := by
  cases c <;> decide

/-- An illegal response faults the run (R201). -/
theorem State.runFaulted_of_illField {s : State} {r : RspWord} (hr : r ∈ s.taken) (hill : illField r = true) :
    s.runFaulted = true :=
  List.any_eq_true.2 ⟨r, hr, hill⟩

/-- Settles O31: the served head is the illegal-request report, whose word has ILL set. -/
theorem stepReportsAnIllegalHead : Obligations.StepReportsAnIllegalHead := by
  intro s f rest c hq hdec hhold htake
  refine ⟨rspIllegal c, rspIllegal_eq_code c, rspIllegal_eq c, ?_, ?_⟩
  · rw [step_of_takesResponse hhold htake, serveHead_of_illegal hq hdec, afterNext_next, State.deliver, hq,
      List.tail_cons]
  · exact State.runFaulted_of_illField (by simp) (illField_rspIllegal c)

/-- Settles O32: `serveHead_answers_resp`, field by field. -/
theorem servedHeadAnswersResp : Obligations.ServedHeadAnswersResp := by
  intro s f rest hq
  rw [serveHead_answers_resp hq]
  cases oorWord f.word <;> simp [State.deliver, State.drawn, hq]

/-! ## Any edge without reset -/

/-- Settles O33: the fields of `step_eq_finishEdge`, with each handshake by its ports. -/
theorem handshakesMoveWholeWords : Obligations.HandshakesMoveWholeWords := by
  rintro s e rfl hhold hrst
  obtain ⟨d, hstep, hd⟩ := step_eq_finishEdge hhold hrst
  have harr : (s.arrivals s.nextEdge).map Flight.word
      = if s.acceptsRequest s.nextEdge then [s.nextEdge.reqWord] else [] := by
    simp [State.arrivals, apply_ite]
  refine ⟨_, hstep, ?_, ?_, rfl, ?_, rfl, rfl, congrArg _ harr, rfl, rfl, hd⟩
  · simp [State.acceptsRequest_iff, State.reqReady_iff, hrst]
  · simp [State.takesResponse_iff, State.rspValidOut_iff, hrst]
  · simp [State.finishEdge_rspValid, headReady_iff]

/-- A response that stays valid stays the same word: Q keeps its head and no draw is used. -/
theorem State.finishEdge_rspWord {s : State} {e e' : Edge} (hvalid : s.rspValidOut e = true)
    (htake : s.takesResponse e = false) (hrst : e'.rst = false) :
    (s.finishEdge e s).rspValidOut e' = true ∧ (s.finishEdge e s).rspWord e' = s.rspWord e := by
  obtain ⟨-, -, hne⟩ := (s.rspValidOut_iff e).1 hvalid
  obtain ⟨f, rest, hq⟩ := List.exists_cons_of_ne_nil hne
  have hq' : (s.finishEdge e s).queue = f.tick :: (rest.map Flight.tick ++ s.arrivals e) := by simp [hq]
  have hvalid' : (s.finishEdge e s).rspValidOut e' = true := by
    simp [State.rspValidOut_iff, hrst, hvalid, htake, hq]
  refine ⟨hvalid', ?_⟩
  rw [State.rspWord_of_rspValidOut hvalid' hq', State.rspWord_of_rspValidOut hvalid hq]
  rfl

/-- Settles O34: an edge without a response leaves the valid response as it is. -/
theorem responseIsStableUntilTaken : Obligations.ResponseIsStableUntilTaken := by
  intro s hhold hvalid htake
  obtain ⟨hrst, -, -⟩ := (s.rspValidOut_iff _).1 hvalid
  refine ⟨_, step_of_not_takesResponse hhold hrst htake, ?_, fun e => State.finishEdge_rspWord hvalid htake⟩
  simp [hvalid, htake]

/-! ## Reset and the host's promise -/

/-- Settles O35: the ports are gated by `rst`, and the step is the reset edge. -/
theorem resetDiscardsRequestsInFlight : Obligations.ResetDiscardsRequestsInFlight := by
  rintro s e rfl hrst
  refine ⟨by simp [State.reqReady, hrst], by simp [State.rspValidOut, hrst], fun hhold => ?_⟩
  exact ⟨_, step_of_rst hhold hrst, rfl, rfl, rfl, rfl, rfl, rfl, rfl⟩

/-- Settles O36: Q is empty after reset, and `req_ready` is gated by `rst`. -/
theorem resetLeavesQueueEmpty : Obligations.ResetLeavesQueueEmpty := by
  refine ⟨rfl, fun e => ?_, fun s e hrst => ?_⟩
  · simp [State.rspValidOut]
  · simp [State.reqReady, hrst]

/-- Settles O38: the hold of the pending word is what the next edge breaks. -/
theorem brokenHoldFaults : Obligations.BrokenHoldFaults :=
  fun _ _ hpending hbreak => step_of_holdBroken ((State.holdBroken_some _ hpending).2 hbreak)

/-- Settles O39: with the hold kept, an edge under reset and one without both answer a next state. -/
theorem stepStopsOnlyOnBrokenHold : Obligations.StepStopsOnlyOnBrokenHold := by
  intro s
  cases hhold : s.holdBroken s.nextEdge with
  | true => exact .inr ⟨rfl, step_of_holdBroken hhold⟩
  | false =>
    refine .inl ⟨rfl, ?_⟩
    cases hrst : s.nextEdge.rst with
    | true => exact ⟨_, step_of_rst hhold hrst⟩
    | false =>
      obtain ⟨d, hstep, -⟩ := step_eq_finishEdge hhold hrst
      exact ⟨_, hstep⟩

/-- Settles O43: Q and the records are empty, whatever the schedule. -/
theorem resetMeetsTheInvariants : Obligations.ResetMeetsTheInvariants :=
  fun _ => ⟨State.queueInv_of_empty rfl rfl, ⟨rfl, .nil⟩, List.forall_mem_nil _⟩

/-! ## The latency of one request (R32, R237) -/

/-- A run of `k` steps and one more. -/
theorem run_snoc {M : Host.Core} {k : Nat} {s t u : M.State} (hrun : M.run k s = .next t) (hstep : M.step t = .next u) :
    M.run (k + 1) s = .next u := by
  induction k generalizing s with
  | zero => cases hrun; simp [Host.Core.run, hstep]
  | succ k ih =>
    obtain ⟨v, hv, hrest⟩ := run_succ hrun
    rw [Host.Core.run, hv]
    exact ih hrest

/-- An edge at which the host offers nothing and takes a response, and the unit is ready. -/
def readyEdge : Edge := ⟨false, false, 0#32, true, true, true⟩

/-- The state after reset with the request `w` offered at the first edge, and LAT more edges to come. -/
def State.offered (w : ReqWord) : State :=
  { State.reset with schedule := ⟨false, true, w, true, true, true⟩ :: List.replicate Config.lat readyEdge }

/-- The state `j` edges after the one that accepted the request, its response not taken. -/
def State.waiting (w : ReqWord) (j : Nat) : State :=
  { State.reset with
    queue := [⟨w, j + 1⟩], rspValid := decide (Config.lat ≤ j + 1), accepted := [w], edges := j + 1
    schedule := List.replicate (Config.lat - j) readyEdge }

@[simp] theorem State.waiting_queue (w : ReqWord) (j : Nat) : (State.waiting w j).queue = [⟨w, j + 1⟩] := rfl
@[simp] theorem State.waiting_taken (w : ReqWord) (j : Nat) : (State.waiting w j).taken = [] := rfl

/-- The first edge accepts the request, for Q is empty and DEPTH at least 1. -/
theorem State.offered_acceptsRequest (w : ReqWord) :
    (State.offered w).acceptsRequest (State.offered w).nextEdge = true := by
  rw [State.acceptsRequest_iff, State.reqReady_iff]
  exact ⟨rfl, rfl, rfl, depth_pos⟩

theorem step_offered (w : ReqWord) : step (State.offered w) = .next (State.waiting w 0) := by
  rw [step_of_not_takesResponse rfl rfl rfl, State.finishEdge, State.arrivals, State.offered_acceptsRequest]
  simp [State.offered, State.waiting, State.nextEdge, State.rspValidOut, State.reset]

theorem State.nextEdge_waiting (w : ReqWord) {j : Nat} (hj : j < Config.lat) :
    (State.waiting w j).nextEdge = readyEdge := by
  obtain ⟨m, hm⟩ := Nat.exists_eq_succ_of_ne_zero (Nat.sub_ne_zero_of_lt hj)
  refine State.nextEdge_cons (es := List.replicate m readyEdge) ?_
  rw [State.waiting, hm, List.replicate_succ]

/-- Before LAT cycles have passed the response is not valid, and an edge only ages the request. -/
theorem step_waiting {w : ReqWord} {j : Nat} (hj : j + 1 < Config.lat) :
    step (State.waiting w j) = .next (State.waiting w (j + 1)) := by
  have hedge := State.nextEdge_waiting w (Nat.lt_of_succ_lt hj)
  have hvalid : (State.waiting w j).rspValidOut readyEdge = false := by
    simpa [State.rspValidOut, State.waiting, readyEdge] using hj
  have htake : (State.waiting w j).takesResponse readyEdge = false := by simp [State.takesResponse, hvalid]
  rw [step_of_not_takesResponse (State.holdBroken_none _ rfl) (by rw [hedge]; rfl) (by rw [hedge, htake]), hedge,
    State.finishEdge, State.arrivals_of_not_acceptsRequest rfl, hvalid]
  simp [State.waiting, readyEdge, Flight.tick, Nat.sub_sub]

/-- LAT edges after the acceptance the response is taken, and Q is empty. -/
theorem step_waiting_last {w : ReqWord} {j : Nat} (hj : j + 1 = Config.lat) :
    ∃ (t : State) (r : RspWord), step (State.waiting w j) = .next t ∧
      t.accepted = [w] ∧ t.taken = [r] ∧ t.queue = [] ∧ Admissible w r := by
  have hedge := State.nextEdge_waiting w (Nat.lt_of_succ_le hj.le)
  have hvalid : (State.waiting w j).rspValidOut readyEdge = true := by
    simp [State.rspValidOut, State.waiting, readyEdge, hj]
  have htake : (State.waiting w j).takesResponse readyEdge = true := (State.takesResponse_iff _ _).2 ⟨rfl, hvalid⟩
  obtain ⟨d, hstep, -⟩ := step_eq_finishEdge (State.holdBroken_none _ rfl) (congrArg Edge.rst hedge)
  rw [hedge] at hstep
  refine ⟨_, _, hstep, rfl, ?_, ?_, _, State.rspWord_of_rspValidOut hvalid rfl⟩
  · simp [State.responded, htake]
  · simp [State.responded, htake, State.arrivals_of_not_acceptsRequest (e := readyEdge) rfl]

/-- Settles O47: after `j + 1` edges the request has waited for `j`, up to the edge that takes its response. -/
theorem requestIsAnsweredAfterLat : Obligations.RequestIsAnsweredAfterLat := by
  rintro w _ rfl
  have hrun : ∀ j, j < Config.lat →
      Host.Core.run Sys2Proof.core (j + 1) (State.offered w) = .next (State.waiting w j) := by
    intro j hj
    induction j with
    | zero => exact run_snoc rfl (step_offered w)
    | succ j ih => exact run_snoc (ih (Nat.lt_of_succ_lt hj)) (step_waiting hj)
  constructor
  · intro k hk
    cases k with
    | zero => exact ⟨_, rfl, rfl⟩
    | succ j => exact ⟨_, hrun j hk, rfl⟩
  · obtain ⟨t, r, hstep, hlast⟩ := step_waiting_last (w := w) (j := Config.latPred) rfl
    exact ⟨t, r, run_snoc (hrun _ (Nat.lt_succ_self _)) hstep, hlast⟩

end Sys2Proof.Machine
end

section
/-! PROOFS. 00_scope.md R8, R9 and 40_primitives.md: `u8` narrows sums and products of integers step by step, and the
sub-units in integers (R100 to R110, R140), with ZZDEC's closed form (R102, R103). -/

namespace Sys2Proof

/-! ## Narrowing (R8) -/

@[simp] theorem u8_s8 (x : U8) : u8 (s8 x) = x := BitVec.ofInt_toInt

theorem u8_natCast (k : Nat) : u8 (k : Int) = BitVec.ofNat 8 k := BitVec.ofInt_natCast 8 k

@[simp] theorem u8_toNat (x : U8) : u8 (x.toNat : Int) = x := by rw [u8_natCast, BitVec.ofNat_toNat, BitVec.setWidth_eq]

theorem u8_add (x y : Int) : u8 (x + y) = u8 x + u8 y := BitVec.ofInt_add x y

theorem u8_neg (x : Int) : u8 (-x) = -u8 x := BitVec.ofInt_neg

theorem u8_sub (x y : Int) : u8 (x - y) = u8 x - u8 y := by
  rw [Int.sub_eq_add_neg, u8_add, u8_neg, ← BitVec.sub_eq_add_neg]

theorem u8_mul (x y : Int) : u8 (x * y) = u8 x * u8 y := BitVec.ofInt_mul x y

/-- A signed value is exact where it fits. -/
theorem s8_u8 {v : Int} (hlo : -128 ≤ v) (hhi : v ≤ 127) : s8 (u8 v) = v :=
  BitVec.toInt_ofInt_eq_self (by decide) hlo (Int.lt_of_le_sub_one hhi)

end Sys2Proof

namespace Sys2Proof.Machine

theorem lowBit_eq (x : U8) : x &&& 1#8 = if x.getLsbD 0 then 1#8 else 0#8 := by
  rw [BitVec.and_one_eq_setWidth_ofBool_getLsbD]
  cases x.getLsbD 0 <;> rfl

theorem getLsbD_zero_iff (x : U8) : x.getLsbD 0 = true ↔ x.toNat % 2 = 1 := by
  simp [BitVec.getLsbD, Nat.testBit_zero]

/-! ## The nibble table (R101) -/

/-- The table reverses the four bits of its index. -/
theorem nrev_getLsbD (n : BitVec 4) {j : Nat} (hj : j < 4) : (nrev n).getLsbD j = n.getLsbD (3 - j) := by
  revert n j
  decide

/-- Settles O8: the low nibble's reversal gives the high four bits of R100's reversal, the high nibble's the low four. -/
theorem nibbleTableReverses : Obligations.NibbleTableReverses := by
  refine ⟨fun n j => nrev_getLsbD n, fun x => BitVec.eq_of_getLsbD_eq fun i hi => ?_⟩
  rw [brev8_getLsbD x hi, BitVec.getLsbD_append]
  split_ifs with hlow
  · rw [nrev_getLsbD _ hlow]
    simp [show 3 - i < 4 by omega, show 4 + (3 - i) = 7 - i by omega]
  · rw [nrev_getLsbD _ (by omega)]
    simp [show 3 - (i - 4) = 7 - i by omega, show 7 - i < 4 by omega]

/-! ## The popcount shifter (R104, R105) -/

theorem pshift_toNat (x : U8) : (pshift x).toNat = x.toNat / 2 ^ popcnt8 x := by
  rw [pshift, shr8, BitVec.toNat_ushiftRight, Nat.shiftRight_eq_div_pow]

theorem popcnt8_le (x : U8) : popcnt8 x ≤ 8 := by
  have hbit : ∀ i, (x.getLsbD i).toNat ≤ 1 := fun i => Bool.toNat_le _
  have := hbit 0; have := hbit 1; have := hbit 2; have := hbit 3
  have := hbit 4; have := hbit 5; have := hbit 6; have := hbit 7
  unfold popcnt8
  omega

/-- Only 0x80 has its one bit in a place that the shift leaves above 0x3F. -/
theorem pshift_le : ∀ x : U8, (pshift x).toNat ≤ 0x40 ∧ (pshift x = 0x40#8 ↔ x = 0x80#8) := by decide

/-- Settles O9: a logical shift divides, and the bound is `pshift_le`'s. -/
theorem popcountShiftBound : Obligations.PopcountShiftBound := by
  refine ⟨fun x => ⟨?_, popcnt8_le x⟩, pshift_toNat, by decide, by decide, by decide, fun x => ?_⟩
  · simp [popcnt8, List.range_succ, Nat.add_assoc]
  · obtain ⟨hle, hiff⟩ := pshift_le x
    exact ⟨hle, hiff, Nat.testBit_lt_two_pow (by omega)⟩

/-! ## The smoothing constants (R107, R109, R140) -/

theorem u8_two_pow_sub_one (k : Nat) : u8 (2 ^ k - 1) = const8 (2 ^ k - 1) := by
  rw [const8, ← u8_natCast, Nat.cast_sub (Nat.one_le_two_pow), Nat.cast_pow]
  rfl

/-- The offset is the distance from the recentring constant, narrowed. -/
theorem soff_eq_u8 (n : Nat) (c : U8) : soff n c = u8 ((c.toNat : Int) - (2 ^ (n - 1) - 1)) := by
  rw [u8_sub, u8_toNat, u8_two_pow_sub_one, soff, sub8]

/-- The powers of two of a width in [2,7], that of the recentring constant read as an integer. -/
theorem exists_two_pow_pred {n : Nat} (hlo : 2 ≤ n) (hhi : n ≤ 7) :
    ∃ k : Nat, 2 ≤ k ∧ k ≤ 64 ∧ 2 ^ n = 2 * k ∧ (2 : Int) ^ (n - 1) = k := by
  refine ⟨2 ^ (n - 1), ?_⟩
  interval_cases n <;> decide

/-- In range the offset is exact as a signed value (R140). -/
theorem s8_soff {n : Nat} {c : U8} (hlo : 2 ≤ n) (hhi : n ≤ 7) (hc : c.toNat ≤ 2 ^ n - 1) :
    s8 (soff n c) = (c.toNat : Int) - (2 ^ (n - 1) - 1) := by
  obtain ⟨k, h2, h64, hn, hk⟩ := exists_two_pow_pred hlo hhi
  rw [soff_eq_u8, hk]
  exact s8_u8 (by omega) (by omega)

/-- Settles O10: MASK is a remainder, and in range the offset does not wrap. -/
theorem smoothingConstants : Obligations.SmoothingConstants := by
  refine ⟨by decide, by decide, fun n x _ _ => mask_toNat n x, fun n c _ _ => soff_eq_u8 n c, fun n c hlo hhi hc => ?_⟩
  obtain ⟨k, h2, h64, hn, hk⟩ := exists_two_pow_pred hlo hhi
  rw [s8_soff hlo hhi hc, hk]
  exact ⟨rfl, by omega, by omega⟩

/-! ## The parity fixup (R110) -/

theorem fixup_zero (v : U8) : fixup v 0#8 = ~~~v := by
  rw [fixup, add8, BitVec.add_zero]
  exact BitVec.xor_allOnes

theorem fixup_one (v : U8) : fixup v 1#8 = v + 1#8 := by
  rw [fixup, add8]
  exact congrArg (· + 1#8) BitVec.xor_zero

theorem u8_add_one (w : Int) : u8 (w + 1) = u8 w + 1#8 := u8_add w 1

theorem u8_neg_add_one (w : Int) : u8 (-(w + 1)) = ~~~u8 w := by
  rw [u8_neg, u8_add_one, BitVec.neg_add, BitVec.not_eq_neg_add]

/-- The fixup of a narrowed value by a byte's bit 0, in integers. -/
theorem fixup_u8_lowBit (w : Int) (b : U8) :
    fixup (u8 w) (b &&& 1#8) = u8 (if b.getLsbD 0 then w + 1 else -(w + 1)) := by
  rw [lowBit_eq]
  split
  · rw [fixup_one, u8_add_one]
  · rw [fixup_zero, u8_neg_add_one]

/-- Settles O11: the complement of `v` is `-(v + 1)` modulo 256. -/
theorem parityFixupCases : Obligations.ParityFixupCases := by
  intro v
  refine ⟨fixup_zero v, fixup_one v, ?_, ?_, by decide, by decide⟩
  · rw [u8_neg_add_one, u8_s8, fixup_zero]
  · rw [u8_add_one, u8_s8, fixup_one]

/-! ## The zigzag decoder (R102, R103) -/

theorem s8_of_lt {x : U8} (h : x.toNat < 128) : s8 x = x.toNat := BitVec.toInt_eq_toNat_of_lt (by omega)

theorem s8_ushiftRight_one (x : U8) : s8 (x >>> 1) = (x.toNat : Int) / 2 := by
  have hdiv : (x >>> 1).toNat = x.toNat / 2 := by rw [BitVec.toNat_ushiftRight, Nat.shiftRight_one]
  rw [s8_of_lt (by omega), hdiv, Int.natCast_ediv]
  rfl

/-- The complement of a signed value. -/
theorem s8_not (x : U8) : s8 (~~~x) = -(s8 x + 1) := by
  have hlo : -128 ≤ s8 x := BitVec.le_toInt x
  have hhi : s8 x < 128 := BitVec.toInt_lt
  rw [← s8_u8 (v := -(s8 x + 1)) (by omega) (by omega), u8_neg_add_one, u8_s8]

theorem zz8_of_even {a : U8} (h : a.toNat % 2 = 0) : zz8 a = a >>> 1 := by
  have hbit : ¬ a.getLsbD 0 = true := by rw [getLsbD_zero_iff]; omega
  rw [zz8, lowBit_eq, if_neg hbit]
  exact BitVec.zero_xor

theorem zz8_of_odd {a : U8} (h : a.toNat % 2 = 1) : zz8 a = ~~~(a >>> 1) := by
  rw [zz8, lowBit_eq, if_pos ((getLsbD_zero_iff a).2 h)]
  exact BitVec.allOnes_xor

/-- Settles O14: bit 0 keeps or complements the halved operand, and R103's encoding undoes both. -/
theorem zzdecClosedForm : Obligations.ZzdecClosedForm := by
  intro a s
  have hlt := a.isLt
  refine ⟨zz8 a, ?_, rfl, fun heven => ?_, fun hodd => ?_, zzEnc8_zz8 a⟩
  · rw [exec_zzdec, rspLegal_eq]
    rfl
  · rw [zz8_of_even heven, s8_ushiftRight_one]
    exact ⟨rfl, rfl, by omega, by omega⟩
  · rw [zz8_of_odd hodd, s8_not, s8_ushiftRight_one]
    exact ⟨rfl, by omega, by omega, by omega⟩

end Sys2Proof.Machine
end

section
/-! PROOFS. What PN1, PSM, PSMS, PN2, PN2S and TINY answer, in integers narrowed once (41_paranormal1.md, 42_smooth.md,
43_paranormal2.md, 44_tiny.md). Each answer is its operation's formula (`exec_…`) with the formula in integers. -/

namespace Sys2Proof.Machine

/-- Delivering a legal response, field by field. -/
theorem State.deliver_rspLegal (s : State) (r : U8) :
    s.deliver (rspLegal r) = { s with queue := s.queue.tail, taken := s.taken ++ [0#8 ++ r] } := by
  rw [rspLegal_eq]
  rfl

/-! ## The product and its bias (R106, R108, R130, R141) -/

/-- The decoded product, from the product in integers. -/
theorem productDecoded_eq (a b : U8) :
    productDecoded a b = zz8 (brev8 (u8 ((a.toNat * (b ||| 0x80#8).toNat : Nat) : Int))) := by
  rw [Nat.cast_mul, u8_mul, u8_toNat, u8_toNat]
  rfl

/-- A logical right shift is a division (R10). -/
theorem shr8_eq_u8 (x : U8) (k : Nat) : shr8 x k = u8 ((x.toNat / 2 ^ k : Nat) : Int) := by
  refine BitVec.eq_of_toNat_eq ?_
  have hlt : x.toNat / 2 ^ k < 2 ^ 8 := (Nat.div_le_self _ _).trans_lt x.isLt
  rw [u8_natCast, BitVec.toNat_ofNat, Nat.mod_eq_of_lt hlt, shr8, BitVec.toNat_ushiftRight, Nat.shiftRight_eq_div_pow]

theorem sbias_eq_u8 (b : U8) : sbias b = u8 ((b.toNat / 128 : Nat) : Int) := shr8_eq_u8 b 7

theorem pn1F_eq_u8 (a b : U8) : pn1F a b = u8 (s8 (productDecoded a b) + (b.toNat / 128 : Nat)) := by
  rw [u8_add, u8_s8, ← sbias_eq_u8, pn1F, add8]

theorem psmF_eq_u8 (n : Nat) (a b c : U8) :
    psmF n a b c = u8 (s8 (productDecoded a b) + ((c.toNat : Int) - (2 ^ (n - 1) - 1))) := by
  rw [u8_add, u8_s8, ← soff_eq_u8, psmF, add8]

/-- The product unit sets bit 7 of b, so it does not see it (R131). -/
theorem productDecoded_flip_sign (a b : U8) : productDecoded a (b ^^^ 0x80#8) = productDecoded a b := by
  have hset : ∀ b : U8, (b ^^^ 0x80#8) ||| 0x80#8 = b ||| 0x80#8 := by decide
  rw [productDecoded, hset, productDecoded]

theorem psmF_flip_sign (n : Nat) (a b c : U8) : psmF n a (b ^^^ 0x80#8) c = psmF n a b c := by
  rw [psmF, productDecoded_flip_sign, psmF]

theorem sbias_flip_sign : ∀ b : U8, b.getLsbD 7 = false → sbias (b ^^^ 0x80#8) = sbias b + 1#8 := by decide

theorem pn1F_flip_sign (a : U8) {b : U8} (h : b.getLsbD 7 = false) : pn1F a (b ^^^ 0x80#8) = pn1F a b + 1#8 := by
  rw [pn1F, productDecoded_flip_sign, sbias_flip_sign b h, add8, ← BitVec.add_assoc, pn1F, add8]

/-! ## PN1, PSM and PSMS -/

theorem exec_pn1 (a b : U8) (s : State) : exec (.pn1 a b) s = .next (s.deliver (rspLegal (pn1F a b))) :=
  respond_next (pn1F a b) s

/-- PSM of an operand out of range answers by `OOR_RESULT` and uses up a draw (R142). -/
theorem exec_psm_of_outOfRange {n : Nat} {c : U8} (h : 2 ^ n - 1 < c.toNat) (a b : U8) (s : State) :
    exec (.psm n a b c) s = .next
      (s.drawn.deliver (rspLegal (oorByte Config.oorResult (Config.freeByte s.draws) (psmF n a b c)))) :=
  if_neg (by rw [inRange_iff]; omega)

/-- Settles O16: PN1's formula narrows the integer sum. -/
theorem pn1Answers : Obligations.Pn1Answers := by
  intro a b s
  rw [exec_pn1, State.deliver_rspLegal, pn1F_eq_u8, productDecoded_eq]

/-- Settles O17: the host's product is the product unit's, modulo 256. -/
theorem pn1IsThePrimitivesComposed : Obligations.Pn1IsThePrimitivesComposed := by
  intro a b s
  refine ⟨_, _, _, _, exec_brev _ s, congrArg (s.taken ++ [·]) (rspLegal_eq _), exec_zzdec _ _,
    congrArg (_ ++ [·]) (rspLegal_eq _), ?_⟩
  rw [exec_pn1, State.deliver_rspLegal, pn1F, productDecoded_eq, u8_natCast, add8, sbias, shr8]

/-- Settles O18: in range PSM answers its formula, which narrows the integer sum. -/
theorem psmAnswersInRange : Obligations.PsmAnswersInRange := by
  intro n a b c s _ _ hc
  rw [exec_psm_of_inRange ((inRange_iff n c).2 hc), State.deliver_rspLegal, psmF_eq_u8, productDecoded_eq]

/-- Settles O19: `oorByte` is the draw or the formula, by the setting of `OOR_RESULT`. -/
theorem psmAnswersOutOfRange : Obligations.PsmAnswersOutOfRange := by
  intro n a b c s _ _ hc
  refine ⟨_, by rw [exec_psm_of_outOfRange hc, State.deliver_rspLegal]; rfl, ?_⟩
  cases Config.oorResult <;> rfl

/-- Settles O20: PSM's formula on the masked operand, whose value is the remainder. -/
theorem psmsAnswers : Obligations.PsmsAnswers := by
  intro n a b c s _ _
  rw [exec_psms, State.deliver_rspLegal, psmF_eq_u8, productDecoded_eq, mask_toNat]

/-- Settles O22: bit 7 of b reaches the formulas through `sbias` alone, which PN1's has and PSM's has not. -/
theorem signBiasIsPn1Only : Obligations.SignBiasIsPn1Only := by
  refine ⟨fun n a b c s _ _ hc => ?_, fun n a b c free _ _ => ?_, fun n a b c s _ _ => ?_, fun a b s hb => ?_⟩
  · have hin := (inRange_iff n c).2 hc
    rw [exec_psm_of_inRange hin, psmF_flip_sign, exec_psm_of_inRange hin]
  · rw [psmByte, psmF_flip_sign, psmByte]
  · rw [exec_psms, psmF_flip_sign, exec_psms]
  · refine ⟨pn1F a b, ?_, ?_⟩
    · rw [exec_pn1, State.deliver_rspLegal]
    · rw [exec_pn1, State.deliver_rspLegal, pn1F_flip_sign a hb]

/-! ## PN2 and PN2S (R160 to R164) -/

/-- PN2's value before the parity fixup, in integers (R164); `x` is the smoothing operand. -/
def pn2Base (n : Nat) (a : U8) (x : Nat) : Int :=
  s8 (zz8 (pshift a)) + ((bias2 n).toNat : Int) + ((x / 2 : Nat) : Int) - 2 ^ (n - 2)

theorem u8_two_pow (k : Nat) : u8 (2 ^ k) = const8 (2 ^ k) := by
  rw [const8, ← u8_natCast, Nat.cast_pow]
  rfl

/-- The closed form of PN2 (R164). -/
theorem pn2F_eq_u8 (n : Nat) (a b : U8) :
    pn2F n a b = u8 (if b.getLsbD 0 then pn2Base n a b.toNat + 1 else -(pn2Base n a b.toNat + 1)) := by
  have hhalf : u8 ((b.toNat / 2 : Nat) : Int) = shr8 b 1 := (shr8_eq_u8 b 1).symm
  rw [← fixup_u8_lowBit, pn2Base, u8_sub, u8_add, u8_add, u8_s8, u8_toNat, hhalf, u8_two_pow]
  simp only [pn2F, add8, sub8, BitVec.sub_eq_add_neg, BitVec.add_assoc]

/-- PN2 of an operand out of range answers by `OOR_RESULT` and uses up a draw (R161). -/
theorem exec_pn2_of_outOfRange {n : Nat} {b : U8} (h : 2 ^ n - 1 < b.toNat) (a : U8) (s : State) :
    exec (.pn2 n a b) s = .next
      (s.drawn.deliver (rspLegal (oorByte Config.oorResult (Config.freeByte s.draws) (pn2F n a b)))) :=
  if_neg (by rw [inRange_iff]; omega)

/-- The mask keeps the bit that chooses the sign. -/
theorem mask_getLsbD_zero {n : Nat} (hn : n ≠ 0) (b : U8) : (mask n b).getLsbD 0 = b.getLsbD 0 := by
  rw [Bool.eq_iff_iff, getLsbD_zero_iff, getLsbD_zero_iff, mask_toNat, Nat.mod_mod_of_dvd _ (dvd_pow_self 2 hn)]

/-- Settles O23: the closed form of the function, which PN2 answers in range. -/
theorem pn2ClosedForm : Obligations.Pn2ClosedForm := by
  rintro n a b _ _ w rfl
  refine ⟨pn2F_eq_u8 n a b, fun hb s => ?_⟩
  rw [exec_pn2_of_inRange ((inRange_iff n b).2 hb), State.deliver_rspLegal, pn2F_eq_u8, pn2Base]

/-- Settles O25: `oorByte` is the draw or the function, by the setting of `OOR_RESULT`. -/
theorem pn2AnswersOutOfRange : Obligations.Pn2AnswersOutOfRange := by
  intro n a b s _ _ hb
  refine ⟨_, by rw [exec_pn2_of_outOfRange hb, State.deliver_rspLegal]; rfl, ?_⟩
  cases Config.oorResult <;> rfl

/-- Settles O26: the closed form of PN2 on the masked operand, whose bit 0 is that of b. -/
theorem pn2sAnswers : Obligations.Pn2sAnswers := by
  rintro n a b s hn _ w rfl
  rw [exec_pn2s, State.deliver_rspLegal, pn2F_eq_u8, mask_getLsbD_zero (by omega), mask_toNat, pn2Base]

/-- The shifted and decoded operand is small, and 32 for 0x80 alone. -/
theorem s8_zz8_pshift_bounds :
    ∀ a : U8, -32 ≤ s8 (zz8 (pshift a)) ∧ s8 (zz8 (pshift a)) ≤ 32 ∧ (s8 (zz8 (pshift a)) = 32 ↔ a = 0x80#8) := by
  decide

/-- In range, PN2's value before the fixup lies in -64..64, and is 64 for the largest operands at N = 7 alone. -/
theorem pn2Base_bounds {n : Nat} (a : U8) {x : Nat} (hlo : 2 ≤ n) (hhi : n ≤ 7) (hx : x ≤ 2 ^ n - 1) :
    -64 ≤ pn2Base n a x ∧ pn2Base n a x ≤ 64 ∧
      (pn2Base n a x = 64 ↔ n = 7 ∧ a = 0x80#8 ∧ (x = 0x7E ∨ x = 0x7F)) := by
  obtain ⟨hz, hz', hmax⟩ := s8_zz8_pshift_bounds a
  rw [← hmax]
  unfold pn2Base
  -- For each width the bias and the power of two are numerals, and the rest is linear.
  interval_cases n
  all_goals
    simp [bias2] at hx ⊢
    omega

/-- Settles O24: narrowing is exact within -65..65, and the fixup makes 65 of the base 64 or, for even b, -65. -/
theorem pn2MagnitudeBound : Obligations.Pn2MagnitudeBound := by
  intro n a b s hlo hhi hb
  refine ⟨pn2F n a b, by rw [exec_pn2_of_inRange ((inRange_iff n b).2 hb), State.deliver_rspLegal], ?_⟩
  obtain ⟨hmin, hmax, hiff⟩ := pn2Base_bounds a hlo hhi hb
  have h7F : b = 0x7F#8 ↔ b.toNat = 0x7F := BitVec.toNat_eq
  have h7E : b = 0x7E#8 ↔ b.toNat = 0x7E := BitVec.toNat_eq
  rw [pn2F_eq_u8, h7F, h7E]
  generalize pn2Base n a b.toNat = w at *
  split
  case isTrue hodd =>
    rw [getLsbD_zero_iff] at hodd
    rw [s8_u8 (by omega) (by omega)]
    refine ⟨by omega, by omega, ?_, iff_of_false (by omega) (by omega)⟩
    rw [show w + 1 = 65 ↔ w = 64 by omega, hiff]
    exact and_congr_right fun _ => and_congr_right fun _ => by omega
  case isFalse heven =>
    rw [getLsbD_zero_iff] at heven
    rw [s8_u8 (by omega) (by omega)]
    refine ⟨by omega, by omega, iff_of_false (by omega) (by omega), ?_⟩
    rw [show -(w + 1) = -65 ↔ w = 64 by omega, hiff]
    exact and_congr_right fun _ => and_congr_right fun _ => by omega

/-! ## TINY (R180, R181) -/

/-- TINY's value before the parity fixup, in integers (R181). -/
def tinyBase (a : U8) : Int := s8 (zz8 (pshift (a >>> 2))) + ((a.getLsbD 1).toNat : Int)

theorem tinyBase_bounds : ∀ a : U8, -11 ≤ tinyBase a ∧ tinyBase a ≤ 9 := by decide

theorem tinyF_eq_u8 (a : U8) : tinyF a = u8 (if a.getLsbD 0 then tinyBase a + 1 else -(tinyBase a + 1)) := by
  have hbit : ∀ a : U8, shr8 (a &&& 3#8) 1 = u8 ((a.getLsbD 1).toNat : Int) := by decide
  rw [← fixup_u8_lowBit, tinyBase, u8_add, u8_s8, ← hbit]
  rfl

theorem exec_tiny (a : U8) (s : State) : exec (.tiny a) s = .next (s.deliver (rspLegal (tinyF a))) :=
  respond_next (tinyF a) s

/-- Settles O28: the value before the fixup is too small for the narrowing to wrap. -/
theorem tinyClosedForm : Obligations.TinyClosedForm := by
  intro a s
  obtain ⟨hmin, hmax⟩ := tinyBase_bounds a
  refine ⟨tinyF a, by rw [exec_tiny, State.deliver_rspLegal], ?_⟩
  rintro w rfl
  refine ⟨?_, by unfold tinyBase at *; omega, by unfold tinyBase at *; omega⟩
  rw [tinyF_eq_u8, s8_u8]
  · rfl
  · split <;> omega
  · split <;> omega

end Sys2Proof.Machine
end

section
/-! PROOFS. 30_encoding.md section 4: what the assembler accepts, and what it emits (R73 to R75). `assemble_of_checks` and
`assemble_request_eq_ok_iff` say once what a line of an operation assembles to. -/

namespace Sys2Proof.Machine

/-- The operation a line names, on the bytes of its literals. -/
def AsmOp.lineInstr (op : AsmOp) (width : Option Nat) (operands : List Int) : Instr :=
  op.instr (width.getD 0) (operandByte operands 0) (operandByte operands 1) (operandByte operands 2)

/-! ## The checks of R75 -/

/-- A line that passes the checks on `.N`, operand count and operand range. -/
structure AsmOp.Checked (op : AsmOp) (width : Option Nat) (operands : List Int) : Prop where
  width : op.widthOk width = true
  count : operands.length = op.arity
  range : operands.all operandOk = true

theorem operandOk_iff (v : Int) : operandOk v = true ↔ -128 ≤ v ∧ v ≤ 255 := by simp [operandOk]

/-- The checks in the order the model gives them (log entry 17). -/
theorem assemble_request (op : AsmOp) (width : Option Nat) (operands : List Int) :
    assemble (.request op width operands) =
      if !op.widthOk width then .error .badWidth
      else if operands.length ≠ op.arity then .error .operandCount
      else if !operands.all operandOk then .error .operandRange
      else if !smoothingOk (op.lineInstr width operands) then .error .useSafeForm
      else .ok (encode (op.lineInstr width operands)) := rfl

/-- The smoothing operand is the last check. -/
theorem assemble_of_checked {op : AsmOp} {width : Option Nat} {operands : List Int}
    (h : op.Checked width operands) :
    assemble (.request op width operands) =
      if smoothingOk (op.lineInstr width operands) then .ok (encode (op.lineInstr width operands))
      else .error .useSafeForm := by
  obtain ⟨hwidth, hcount, hrange⟩ := h
  rw [assemble_request, hwidth, hrange]
  cases smoothingOk (op.lineInstr width operands) <;> simp [hcount]

/-- A line of an operation assembles exactly if it passes every check, and to its operation's encoding. -/
theorem assemble_request_eq_ok_iff {op : AsmOp} {width : Option Nat} {operands : List Int} {w : ReqWord} :
    assemble (.request op width operands) = .ok w ↔
      op.Checked width operands ∧ smoothingOk (op.lineInstr width operands) = true ∧
        w = encode (op.lineInstr width operands) := by
  constructor
  · intro h
    have hchecked : op.Checked width operands := by
      rw [assemble_request] at h
      split_ifs at h with hwidth hcount hrange
      exact ⟨by simpa using hwidth, by simpa using hcount, by simpa using hrange⟩
    rw [assemble_of_checked hchecked] at h
    split at h
    · cases h
      exact ⟨hchecked, ‹_›, rfl⟩
    · cases h
  · rintro ⟨hchecked, hsmooth, rfl⟩
    rw [assemble_of_checked hchecked, if_pos hsmooth]

/-! ## The operation of a line -/

/-- The width check makes the operation well-formed, with `.N` as its width. -/
theorem AsmOp.lineInstr_of_widthOk {op : AsmOp} {width : Option Nat} (h : op.widthOk width = true)
    (operands : List Int) : (op.lineInstr width operands).wf = true ∧ (op.lineInstr width operands).width = width := by
  cases op with
  | brev | zzdec | pn1 | tiny =>
    cases width with
    | none => exact ⟨rfl, rfl⟩
    | some n => exact absurd h Bool.false_ne_true
  | psm | psms | pn2 | pn2s =>
    cases width with
    | none => exact absurd h Bool.false_ne_true
    | some n => exact ⟨h, rfl⟩

/-- R75's check on the smoothing operand leaves nothing for `OOR_RESULT` to decide. -/
theorem answerOutOfRange_eq_not_smoothingOk (i : Instr) : answerOutOfRange i = !smoothingOk i := by
  cases i <;> rfl

/-- The word of a line that assembles decodes to the line's operation, well-formed and in range. -/
theorem decode_of_assemble {op : AsmOp} {width : Option Nat} {operands : List Int} {w : ReqWord}
    (h : assemble (.request op width operands) = .ok w) :
    (op.lineInstr width operands).wf = true ∧ decode w = .legal (op.lineInstr width operands) ∧
      oorWord w = false ∧ (op.lineInstr width operands).width = width := by
  obtain ⟨hchecked, hsmooth, rfl⟩ := assemble_request_eq_ok_iff.1 h
  obtain ⟨hwf, hwidth⟩ := AsmOp.lineInstr_of_widthOk hchecked.width operands
  have hdec := decodeOfEncodeIsTheOperation _ hwf
  refine ⟨hwf, hdec, ?_, hwidth⟩
  rw [oorWord_of_legal hdec, answerOutOfRange_eq_not_smoothingOk]
  exact congrArg not hsmooth

/-- Settles O48: the word of a line that assembles is its operation's encoding, and a smoothing operand out of range
reaches the last check. -/
theorem assembledLinesAreLegal : Obligations.AssembledLinesAreLegal := by
  refine ⟨fun op width operands w h => ?_, fun n x y z hlo hhi hx hx' hy hy' hz hz' => ?_, fun w hw => ?_⟩
  · obtain ⟨hwf, hdec, hoor, hwidth⟩ := decode_of_assemble h
    obtain ⟨hchecked, -, -⟩ := assemble_request_eq_ok_iff.1 h
    refine ⟨hchecked.count.trans ?_, fun v hv => ?_, ⟨_, hwf, hdec, hoor, hwidth, ?_, rfl⟩⟩
    · cases op <;> rfl
    · exact (operandOk_iff v).1 (List.all_eq_true.1 hchecked.range v hv)
    · cases op <;> rfl
  · have hn : legalWidth n = true := (legalWidth_iff n).2 ⟨hlo, hhi⟩
    have hpsm : AsmOp.Checked .psm (some n) [x, y, z] := ⟨hn, rfl, by simp [operandOk_iff, *]⟩
    have hpn2 : AsmOp.Checked .pn2 (some n) [x, y] := ⟨hn, rfl, by simp [operandOk_iff, *]⟩
    rw [assemble_of_checked hpsm, assemble_of_checked hpn2]
    exact ⟨fun hout => if_neg (mt (inRange_iff n (u8 z)).1 (Nat.not_le.2 hout)),
      fun hout => if_neg (mt (inRange_iff n (u8 y)).1 (Nat.not_le.2 hout))⟩
  · exact if_neg (Nat.not_lt.2 hw)

/-- Settles O49: each form passes the checks of R75. -/
theorem assemblyForms : Obligations.AssemblyForms := by
  refine ⟨fun a => ⟨u8_toNat a, u8_s8 a⟩, fun x y hx hx' hy hy' => ?_,
    fun n x y z hlo hhi hx hx' hy hy' hz hz' => ?_, fun w => ?_⟩
  · have hone : [x].all operandOk = true := by simp [operandOk_iff, *]
    have htwo : [x, y].all operandOk = true := by simp [operandOk_iff, *]
    have hbrev : AsmOp.Checked .brev none [x] := ⟨rfl, rfl, hone⟩
    have hzzdec : AsmOp.Checked .zzdec none [x] := ⟨rfl, rfl, hone⟩
    have hpn1 : AsmOp.Checked .pn1 none [x, y] := ⟨rfl, rfl, htwo⟩
    have htiny : AsmOp.Checked .tiny none [x] := ⟨rfl, rfl, hone⟩
    exact ⟨assemble_of_checked hbrev, assemble_of_checked hzzdec, assemble_of_checked hpn1, assemble_of_checked htiny⟩
  · have hn : legalWidth n = true := (legalWidth_iff n).2 ⟨hlo, hhi⟩
    have htwo : [x, y].all operandOk = true := by simp [operandOk_iff, *]
    have hthree : [x, y, z].all operandOk = true := by simp [operandOk_iff, *]
    have hpsms : AsmOp.Checked .psms (some n) [x, y, z] := ⟨hn, rfl, hthree⟩
    have hpn2s : AsmOp.Checked .pn2s (some n) [x, y] := ⟨hn, rfl, htwo⟩
    have hpsm : AsmOp.Checked .psm (some n) [x, y, z] := ⟨hn, rfl, hthree⟩
    have hpn2 : AsmOp.Checked .pn2 (some n) [x, y] := ⟨hn, rfl, htwo⟩
    exact ⟨assemble_of_checked hpsms, assemble_of_checked hpn2s,
      fun hin => (assemble_of_checked hpsm).trans (if_pos ((inRange_iff n (u8 z)).2 hin)),
      fun hin => (assemble_of_checked hpn2).trans (if_pos ((inRange_iff n (u8 y)).2 hin))⟩
  · rw [assemble, if_pos w.isLt, BitVec.ofNat_toNat, BitVec.setWidth_eq]

end Sys2Proof.Machine
end
